-- ==== Sys2Proof/Word.lean ====
section
/-! DEFINITION. The word types of the wavetable oscillator engine (R6: `uN`, `iN`). -/

namespace Sys2Proof

/-- One byte of host memory (R60). -/
abbrev Byte := BitVec 8

/-- A 16-bit field of a sound instruction, or a stored sample (R74). -/
abbrev Half := BitVec 16

/-- A 32-bit register (voice registers R28 to R34, host registers R44). -/
abbrev Word := BitVec 32

/-- A 64-bit sample index: the clock and the start times (R21, R26, R38). -/
abbrev Clock := BitVec 64

end Sys2Proof
end

