-- ==== Sys2Proof/Syntax.lean ====
section
/-! DEFINITION. The syntax: the ten sound instructions (R92) and the four command words (R47, R98, R99), one
constructor per mnemonic of the opcode table. -/

namespace Sys2Proof

/-- The fields of a sound instruction other than its waveform code, as they stand in the buffer (R90): raw, before the
clamping of R95. -/
structure SoundOps where
  /-- Byte 1, reserved: ignored by the engine (R94). -/
  flags        : Byte
  /-- Start frequency in Hz, u16. -/
  frequency    : Half
  /-- Duration in milliseconds, u16. -/
  duration     : Half
  /-- Start volume, i16. -/
  startVolume  : Half
  /-- End volume, i16. -/
  endVolume    : Half
  /-- End frequency in Hz, u16. -/
  endFrequency : Half
  deriving DecidableEq, Repr

/-- The two places an opcode is read from: a sound program in host memory (R90) and the CMD register (R47). -/
inductive Space where
  | program
  | command
  deriving DecidableEq, Repr

/-- The instructions of spec/opcode_table.json. The nine SILENCE rows are one instruction (R93, R130), so `silence`
keeps its code; the operands of PLAY and RENDER stand in ARG0 to ARG2, not in the word (R98). -/
inductive Instr where
  | triangle (op : SoundOps)
  | sawtooth (op : SoundOps)
  | sine (op : SoundOps)
  | noise (op : SoundOps)
  | square10 (op : SoundOps)
  | square20 (op : SoundOps)
  | square30 (op : SoundOps)
  | square40 (op : SoundOps)
  | square50 (op : SoundOps)
  | silence (code : Byte) (op : SoundOps)
  | play
  | stop
  | render
  | cmdReserved (w : Word)
  deriving DecidableEq, Repr

/-- Where the instruction is read from. -/
def Instr.space : Instr → Space
  | .triangle _ => .program
  | .sawtooth _ => .program
  | .sine _ => .program
  | .noise _ => .program
  | .square10 _ => .program
  | .square20 _ => .program
  | .square30 _ => .program
  | .square40 _ => .program
  | .square50 _ => .program
  | .silence _ _ => .program
  | .play => .command
  | .stop => .command
  | .render => .command
  | .cmdReserved _ => .command

/-- The waveform code and the operands of a sound instruction (R90, R92); a command has none. -/
def Instr.sound : Instr → Option (Byte × SoundOps)
  | .triangle op => some (1#8, op)
  | .sawtooth op => some (2#8, op)
  | .sine op => some (3#8, op)
  | .noise op => some (5#8, op)
  | .square10 op => some (11#8, op)
  | .square20 op => some (12#8, op)
  | .square30 op => some (13#8, op)
  | .square40 op => some (14#8, op)
  | .square50 op => some (15#8, op)
  | .silence code op => some (code, op)
  | .play => none
  | .stop => none
  | .render => none
  | .cmdReserved _ => none

end Sys2Proof
end

