-- ==== Sys2Proof/WellFormed.lean ====
section
/-! DEFINITION. Which terms of `Instr` stand for an encoding: every raw field value is legal (R93, R95), so the only
checks are that `silence` and `cmdReserved` do not name another instruction's code. -/

namespace Sys2Proof

/-- The nine waveform codes of R92 that have a generator of their own. -/
def namedWaveCode (code : Byte) : Bool :=
  code == 1#8 || code == 2#8 || code == 3#8 || code == 5#8 || code == 11#8 || code == 12#8 ||
  code == 13#8 || code == 14#8 || code == 15#8

/-- The three CMD values of R98. -/
def namedCommand (w : Word) : Bool := w == 1#32 || w == 2#32 || w == 3#32

/-- `silence` carries one of the 246 codes R92 leaves it; `cmdReserved` carries a reserved value (R99). -/
def WellFormed : Instr → Bool
  | .triangle _ => true
  | .sawtooth _ => true
  | .sine _ => true
  | .noise _ => true
  | .square10 _ => true
  | .square20 _ => true
  | .square30 _ => true
  | .square40 _ => true
  | .square50 _ => true
  | .silence code _ => !namedWaveCode code
  | .play => true
  | .stop => true
  | .render => true
  | .cmdReserved w => !namedCommand w

end Sys2Proof
end

