-- ==== Sys2Proof/Decode.lean ====
section
/-! DEFINITION. The decoder of both encoding spaces (R90 to R93, R97 to R99), total on any bytes, and after it the
encoder. Multi-byte fields are little-endian (R61). -/

namespace Sys2Proof

/-- INSTR_SIZE (R90). -/
abbrev instrSize : Nat := 12

/-- The halfword whose bytes are `lo` (lower address) and `hi` (R61, R62). -/
def le16 (lo hi : Byte) : Half := hi ++ lo

/-- The word whose bytes are `b0` (lowest address) to `b3` (R61). -/
def le32 (b0 b1 b2 b3 : Byte) : Word := b3 ++ b2 ++ b1 ++ b0

/-- The bytes of a halfword, the lower address first (R61, R62). -/
def bytesOfHalf (h : Half) : List Byte := [h.extractLsb' 0 8, h.extractLsb' 8 8]

/-- The bytes of a word, the lowest address first (R61). -/
def bytesOfWord (w : Word) : List Byte :=
  [w.extractLsb' 0 8, w.extractLsb' 8 8, w.extractLsb' 16 8, w.extractLsb' 24 8]

/-- Why bytes are no instruction: only their number can be wrong (R93, R97, R99). -/
inductive DecodeError where
  /-- Fewer than the 12 bytes of a sound instruction (R96). Safe: a program's length is a multiple of 12. -/
  | shortInstruction
  /-- Fewer than the 4 bytes of a CMD write (R44). Safe: CMD is written whole. -/
  | shortCommand
  deriving DecidableEq, Repr

/-- What decoding answers: an instruction and the bytes after it, or a rejection by name. -/
inductive DecodeResult where
  | ok (i : Instr) (rest : List Byte)
  | reject (why : DecodeError)
  deriving DecidableEq, Repr

/-- The instruction a waveform code selects (R92, R93). -/
def soundInstr (code : Byte) (op : SoundOps) : Instr :=
  if code = 1#8 then .triangle op
  else if code = 2#8 then .sawtooth op
  else if code = 3#8 then .sine op
  else if code = 5#8 then .noise op
  else if code = 11#8 then .square10 op
  else if code = 12#8 then .square20 op
  else if code = 13#8 then .square30 op
  else if code = 14#8 then .square40 op
  else if code = 15#8 then .square50 op
  else .silence code op

/-- The command a CMD value selects (R47, R98, R99). -/
def commandInstr (w : Word) : Instr :=
  if w = 1#32 then .play
  else if w = 2#32 then .stop
  else if w = 3#32 then .render
  else .cmdReserved w

/-- A sound instruction from the bytes of a program (R90, R91). -/
def decodeSound : List Byte → DecodeResult
  | b0 :: b1 :: b2 :: b3 :: b4 :: b5 :: b6 :: b7 :: b8 :: b9 :: b10 :: b11 :: rest =>
    .ok (soundInstr b0
      { flags := b1, frequency := le16 b2 b3, duration := le16 b4 b5, startVolume := le16 b6 b7,
        endVolume := le16 b8 b9, endFrequency := le16 b10 b11 }) rest
  | _ => .reject .shortInstruction

/-- A command from the bytes of a CMD write (R47). -/
def decodeCommand : List Byte → DecodeResult
  | b0 :: b1 :: b2 :: b3 :: rest => .ok (commandInstr (le32 b0 b1 b2 b3)) rest
  | _ => .reject .shortCommand

/-- The decoder of an encoding space. -/
def decode : Space → List Byte → DecodeResult
  | .program, bs => decodeSound bs
  | .command, bs => decodeCommand bs

/-- The 12 bytes of a sound instruction (R90). -/
def encodeSound (code : Byte) (op : SoundOps) : List Byte :=
  [code, op.flags] ++ bytesOfHalf op.frequency ++ bytesOfHalf op.duration ++ bytesOfHalf op.startVolume ++
  bytesOfHalf op.endVolume ++ bytesOfHalf op.endFrequency

/-- The bytes of an instruction, lowest address first (R90, R92, R98). -/
def encode : Instr → List Byte
  | .triangle op => encodeSound 1#8 op
  | .sawtooth op => encodeSound 2#8 op
  | .sine op => encodeSound 3#8 op
  | .noise op => encodeSound 5#8 op
  | .square10 op => encodeSound 11#8 op
  | .square20 op => encodeSound 12#8 op
  | .square30 op => encodeSound 13#8 op
  | .square40 op => encodeSound 14#8 op
  | .square50 op => encodeSound 15#8 op
  | .silence code op => encodeSound code op
  | .play => bytesOfWord 1#32
  | .stop => bytesOfWord 2#32
  | .render => bytesOfWord 3#32
  | .cmdReserved w => bytesOfWord w

/-- The first `n` bytes of the number `w`, least significant first (R90: byte i is W[8i+7:8i]). -/
def bytesOfNat : Nat → Nat → List Byte
  | 0, _ => []
  | n + 1, w => BitVec.ofNat 8 w :: bytesOfNat n (w / 256)

/-- The instruction of a table row: rows of 96 bits are sound instructions, rows of 32 bits are CMD values. -/
def decodeTableWord (nbits w : Nat) : Option Instr :=
  if nbits = 96 then
    match decode .program (bytesOfNat 12 w) with
    | .ok i _ => some i
    | .reject _ => none
  else if nbits = 32 then
    match decode .command (bytesOfNat 4 w) with
    | .ok i _ => some i
    | .reject _ => none
  else none

end Sys2Proof
end

