-- ==== Sys2Proof/Config.lean ====
section
/-! DEFINITION. The configuration of the engine: the implementation parameters of R5, fixed before reset and never
changed while the engine runs. -/

namespace Sys2Proof

/-- The quarter-wave sine table of R132, entries 0 to 256, as a list. -/
def sineRomEntries : List (BitVec 15) :=
  [0#15, 200#15, 401#15, 602#15, 803#15, 1004#15, 1205#15, 1406#15,
   1607#15, 1808#15, 2008#15, 2209#15, 2409#15, 2610#15, 2810#15, 3010#15,
   3210#15, 3410#15, 3610#15, 3810#15, 4009#15, 4209#15, 4408#15, 4607#15,
   4806#15, 5005#15, 5203#15, 5402#15, 5600#15, 5798#15, 5996#15, 6193#15] ++
  [6390#15, 6587#15, 6784#15, 6981#15, 7177#15, 7373#15, 7569#15, 7764#15,
   7959#15, 8154#15, 8349#15, 8543#15, 8737#15, 8930#15, 9124#15, 9317#15,
   9509#15, 9701#15, 9893#15, 10085#15, 10276#15, 10466#15, 10657#15, 10847#15,
   11036#15, 11225#15, 11414#15, 11602#15, 11790#15, 11977#15, 12164#15, 12351#15] ++
  [12537#15, 12722#15, 12907#15, 13092#15, 13276#15, 13460#15, 13643#15, 13825#15,
   14007#15, 14189#15, 14370#15, 14550#15, 14730#15, 14910#15, 15089#15, 15267#15,
   15444#15, 15621#15, 15798#15, 15974#15, 16149#15, 16324#15, 16498#15, 16671#15,
   16844#15, 17016#15, 17188#15, 17359#15, 17529#15, 17699#15, 17868#15, 18036#15] ++
  [18204#15, 18370#15, 18536#15, 18702#15, 18867#15, 19031#15, 19194#15, 19357#15,
   19519#15, 19680#15, 19841#15, 20000#15, 20159#15, 20317#15, 20475#15, 20632#15,
   20787#15, 20942#15, 21097#15, 21250#15, 21403#15, 21555#15, 21706#15, 21856#15,
   22006#15, 22154#15, 22302#15, 22449#15, 22596#15, 22741#15, 22885#15, 23029#15] ++
  [23172#15, 23313#15, 23454#15, 23594#15, 23733#15, 23871#15, 24009#15, 24146#15,
   24281#15, 24415#15, 24549#15, 24682#15, 24814#15, 24945#15, 25075#15, 25204#15,
   25332#15, 25459#15, 25585#15, 25710#15, 25835#15, 25958#15, 26080#15, 26202#15,
   26322#15, 26441#15, 26559#15, 26676#15, 26793#15, 26908#15, 27022#15, 27136#15] ++
  [27248#15, 27359#15, 27469#15, 27578#15, 27687#15, 27794#15, 27899#15, 28004#15,
   28108#15, 28211#15, 28312#15, 28414#15, 28513#15, 28611#15, 28709#15, 28805#15,
   28901#15, 28995#15, 29088#15, 29180#15, 29271#15, 29360#15, 29449#15, 29537#15,
   29623#15, 29709#15, 29793#15, 29876#15, 29958#15, 30039#15, 30118#15, 30197#15] ++
  [30275#15, 30350#15, 30426#15, 30499#15, 30572#15, 30644#15, 30714#15, 30784#15,
   30853#15, 30919#15, 30985#15, 31050#15, 31113#15, 31176#15, 31237#15, 31297#15,
   31356#15, 31413#15, 31470#15, 31525#15, 31579#15, 31632#15, 31684#15, 31734#15,
   31784#15, 31832#15, 31879#15, 31925#15, 31969#15, 32012#15, 32054#15, 32095#15] ++
  [32135#15, 32174#15, 32211#15, 32247#15, 32282#15, 32315#15, 32348#15, 32379#15,
   32409#15, 32438#15, 32466#15, 32492#15, 32517#15, 32541#15, 32564#15, 32586#15,
   32606#15, 32625#15, 32643#15, 32659#15, 32675#15, 32690#15, 32702#15, 32714#15,
   32725#15, 32733#15, 32742#15, 32749#15, 32755#15, 32759#15, 32763#15, 32764#15] ++
  [32767#15]

/-- The quarter-wave sine table of R132: 257 unsigned 15-bit entries. -/
def sineRomR132 : Vector (BitVec 15) 257 := ⟨⟨sineRomEntries⟩, by decide +kernel⟩

/-- The parameters of R5. `devices` is not one of R5's: it is the platform's device space that R69 forbids buffers to
lie in ("A buffer placed in device space is refused likewise"), as (base, size) pairs (log 4, DESIGN CHOICE, unsafe). -/
structure Config where
  /-- SAMPLE_RATE, D1. -/
  sampleRate : Nat
  /-- OUTPUT_BITS, D2. -/
  outputBits : Nat
  /-- MAX_VOICES, D3. -/
  maxVoices  : Nat
  /-- NOISE_SEED, D4. -/
  noiseSeed  : Word
  /-- SINE_ROM, D5: 257 entries of 0 to 32767. -/
  sineRom    : Vector (BitVec 15) 257
  /-- ADDR_BITS, D17. -/
  addrBits   : Nat
  /-- QUEUE_CAP, D18; `none` is unbounded. -/
  queueCap   : Option Nat
  /-- REG_BASE, D20. -/
  regBase    : Nat
  /-- Other device space of the platform, R69. -/
  devices    : List (Nat × Nat)
  deriving DecidableEq, Repr

/-- The defaults of R5, with the two parameters R5 gives no default for: SAMPLE_RATE 16000, the configuration of the
vectors of 95_test_vectors.md (log 1, DESIGN CHOICE, unsafe), and REG_BASE 0x40000000 (log 3, DESIGN CHOICE, unsafe). -/
def Config.default : Config where
  sampleRate := 16000
  outputBits := 10
  maxVoices  := 5
  noiseSeed  := 0x0F01BA80#32
  sineRom    := sineRomR132
  addrBits   := 32
  queueCap   := none
  regBase    := 0x40000000
  devices    := []

/-- The legal ranges of R5; outside them 93_implementation_defined.md refuses the configuration. The type
of SINE_ROM holds no illegal table. REG_BASE is a word-aligned address, so it lies below 2^ADDR_BITS (R5, R60; log 23,
DEDUCED, safe). A base so near the top that part of the 36-byte register block would lie past the last address is
legal (log 24, DESIGN CHOICE, safe): `busRead` and `busWrite` fault on that part. -/
abbrev Config.Legal (c : Config) : Prop :=
  640 ≤ c.sampleRate ∧ c.sampleRate ≤ 1000000 ∧ 2 ≤ c.outputBits ∧ c.outputBits ≤ 16 ∧
  1 ≤ c.maxVoices ∧ c.maxVoices ≤ 255 ∧ c.noiseSeed ≠ 0#32 ∧
  16 ≤ c.addrBits ∧ c.addrBits ≤ 64 ∧ c.queueCap ≠ some 0 ∧
  c.regBase % 4 = 0 ∧ c.regBase < 2 ^ c.addrBits

/-- MAXVAL of R5. -/
def Config.maxval (c : Config) : Nat := 2 ^ (c.outputBits - 1) - 1

/-- MIXSHIFT of R5. -/
def Config.mixshift (c : Config) : Nat := 26 - c.outputBits

/-- The number of bytes of the host memory, R60. -/
def Config.memSize (c : Config) : Nat := 2 ^ c.addrBits

end Sys2Proof
end

