-- ==== Sys2Proof/Machine/State.lean ====
section
/-! DEFINITION. The state of the engine (R20), the host binding's registers, the host memory, and the model's own
fields, as plain data; why a step can stop; and the state after reset (R50, R270). -/

namespace Sys2Proof.Machine

/-- Why the machine stops with a fault. The engine's own fatal fault (R240) is no constructor here: it sets G.FAULT and
the machine goes on, dead (R242), which `raiseFatal` models as a next state (log 8). -/
inductive Fault where
  /-- A host bus access, or an instruction fetch, of an address at or above 2^ADDR_BITS, which does not exist (R60,
  R62). Raised by host bus accesses; by a fetch only in states `Inv` rules out. Safe: the machine stops. -/
  | outsideMemory
  /-- A bound voice names an entry that is not in Q. Raised by RENDER, only in states R36(a) rules out. Safe: the
  machine stops. -/
  | noSuchEntry
  deriving DecidableEq, Repr

/-- Why the spec gives what was asked no meaning (R9 "refuse"). Every constructor is safe: nothing is claimed. -/
inductive Refusal where
  /-- An instruction that has no meaning in this model yet: raised by `exec` alone. -/
  | notModelled (mnemonic : String)
  /-- PLAY or RENDER whose operands or range do not fit 2^ADDR_BITS (R69). -/
  | addressRange
  /-- RENDER whose window overlaps a pinned byte (R67, R69). -/
  | pinnedWindow
  /-- A buffer, a window or a host access that overlaps the register block or other device space (R69). -/
  | deviceSpace
  /-- RENDER that would take CURR, or PLAY whose START would go, past 2^64 - 1 (R251). -/
  | clockOverflow
  /-- PLAY when a bounded queue is full after its sweep (R211, D18). -/
  | queueFull
  /-- A register access that is not an aligned 32-bit access to an offset of the table (R44). -/
  | registerAccess
  /-- A register access when ADDR_BITS is not 32: "It is defined for ADDR_BITS = 32" (10_state.md section 6). -/
  | registerMapUndefined
  /-- A host write to a pinned byte (R67, D31). -/
  | pinnedWrite
  /-- A configuration outside the ranges of R5 (93_implementation_defined.md part 2, row 20). Raised by `step`. -/
  | illegalConfig
  /-- A command word as an instruction of a sound program: no such thing decodes (R210). Never raised on a decoded
  program. -/
  | commandInProgram
  deriving DecidableEq, Repr

/-- The cause of the fatal fault (R240). -/
inductive FatalCause where
  /-- PLAY's LEN is not a multiple of 12. -/
  | misalignedLength
  deriving DecidableEq, Repr

/-- STATE of a queue entry (R39). -/
inductive EntryState where
  | waiting
  | playing
  | done
  deriving DecidableEq, Repr

/-- The encoding of STATE (R39). -/
def EntryState.code : EntryState → BitVec 2
  | .waiting => 0#2
  | .playing => 1#2
  | .done => 2#2

/-- A queue entry (R38). BASE and LEN have ADDR_BITS bits, a parameter, so they are numbers (log 16). -/
structure Entry where
  /-- The entry's name, what V[k].REQ holds (R25). -/
  name  : Nat
  /-- BASE. -/
  base  : Nat
  /-- LEN. -/
  len   : Nat
  /-- STATE. -/
  state : EntryState
  /-- START. -/
  start : Clock
  deriving DecidableEq, Repr

/-- The twelve registers of a voice (R25 to R35). -/
structure Voice where
  /-- REQ (R25). -/
  req    : Option Nat
  /-- START (R26). -/
  start  : Clock
  /-- CUR, the voice's program counter (R27). -/
  cur    : Nat
  /-- END (R27). -/
  endIdx : Nat
  /-- PHASE (R28). -/
  phase  : Word
  /-- CV (R29). -/
  cv     : Bool
  /-- VOL, signed, 16 fraction bits (R30). -/
  vol    : Word
  /-- TSTEP (R31). -/
  tstep  : Word
  /-- TDELTA, signed (R32). -/
  tdelta : Word
  /-- SLEFT (R33). -/
  sleft  : Word
  /-- VSTEP, signed (R34). -/
  vstep  : Word
  /-- WAVE (R35). -/
  wave   : Byte
  deriving DecidableEq, Repr

/-- An event of the pin port (R68). -/
inductive PinEvent where
  | pin (base len : Nat)
  | unpin (base len : Nat)
  deriving DecidableEq, Repr

/-- A host command on abstract operands (R98, R210). -/
inductive Command where
  | play (delayMs : Word) (base len : Nat)
  | stop
  | render (dst : Nat) (n : Word)
  deriving DecidableEq, Repr

/-- A move of the host (R2, R44, R71, R270). -/
inductive HostAction where
  /-- A bus read of `width` bytes: of a register (R44) or of the host memory. -/
  | busRead (addr width : Nat)
  /-- A bus write of bytes, lowest address first: of a register (R44) or of the host memory. -/
  | busWrite (addr : Nat) (bytes : List Byte)
  /-- A command on abstract operands, for any ADDR_BITS (R210). -/
  | command (c : Command)
  /-- The reset input (R270). -/
  | reset
  deriving DecidableEq, Repr

/-- The host memory (R60): the listed bytes, addresses strictly rising, none equal to what an unlisted address reads
as. -/
abbrev Memory := List Host.Cell

/-- The machine. -/
structure State where
  /-- The parameters (R5); no step changes them. -/
  cfg      : Config
  /-- G.CURR (R21). -/
  curr     : Clock
  /-- G.NOISE (R22). -/
  noise    : Word
  /-- G.FAULT (R23). -/
  fault    : Bool
  /-- G.ACTIVE (R42). -/
  active   : Bool
  /-- V (R24). -/
  voices   : List Voice
  /-- Q, the head first (R37). -/
  queue    : List Entry
  /-- ARG0 (R45). -/
  arg0     : Word
  /-- ARG1 (R45). -/
  arg1     : Word
  /-- ARG2 (R45). -/
  arg2     : Word
  /-- The events of the pin port since reset, oldest first (R68; log 10). -/
  pins     : List PinEvent
  /-- The host memory (R60). -/
  mem      : Memory
  /-- ACC, one element per sample of the leaf window being rendered (R41); empty between commands. -/
  acc      : List Int
  /-- The model's own: the index of the voice RENDER is serving; 0 between commands (log 7). -/
  srvVoice : Nat
  /-- The model's own: the window position of the next sample of the served voice; 0 between commands (log 7). -/
  srvPos   : Nat
  /-- The model's own: the name the next entry gets, R25's count of PLAYs (log 9). -/
  nextName : Nat
  /-- The model's own: the host's moves not yet made, the next one first (log 6). -/
  pending  : List HostAction
  /-- The model's own: the bytes the most recent bus read returned (log 12). -/
  busOut   : List Byte
  deriving DecidableEq, Repr

/-- A voice after reset: unbound, every register 0 (R50). -/
def Voice.reset : Voice where
  req    := none
  start  := 0#64
  cur    := 0
  endIdx := 0
  phase  := 0#32
  cv     := false
  vol    := 0#32
  tstep  := 0#32
  tdelta := 0#32
  sleft  := 0#32
  vstep  := 0#32
  wave   := 0#8

/-- The machine right after reset in the configuration `c` (R50, R270). -/
def State.resetWith (c : Config) : State where
  cfg      := c
  curr     := 0#64
  noise    := c.noiseSeed
  fault    := false
  active   := false
  voices   := List.replicate c.maxVoices Voice.reset
  queue    := []
  arg0     := 0#32
  arg1     := 0#32
  arg2     := 0#32
  pins     := []
  mem      := []
  acc      := []
  srvVoice := 0
  srvPos   := 0
  nextName := 0
  pending  := []
  busOut   := []

/-- The machine right after reset, in the default configuration of R5. -/
def State.reset : State := State.resetWith Config.default

end Sys2Proof.Machine
end

