-- ==== Sys2Proof/Machine/Ops.lean ====
section
/-! DEFINITION. The named operations over memory, voices and the queue, and the fatal fault. -/

namespace Sys2Proof.Machine

/-- Sequencing of outcomes: a fault or a refusal ends the command. -/
def andThen {σ τ : Type} (o : Host.Outcome σ Fault Refusal) (f : σ → Host.Outcome τ Fault Refusal) :
    Host.Outcome τ Fault Refusal :=
  match o with
  | .next s => f s
  | .fault r => .fault r
  | .refused r => .refused r

/-! ## Host memory (R60 to R62) -/

/-- What an address nothing has written reads as (log 5, DESIGN CHOICE, unsafe: the spec gives host memory no
contents). -/
def unlistedByte : Byte := 0#8

/-- M[a] (R62). -/
def memRead : Memory → Nat → Byte
  | [], _ => unlistedByte
  | (k, b) :: m, a => if k = a then b else memRead m a

/-- M[a] <- b, keeping the canonical form (R62). -/
def memWrite : Memory → Nat → Byte → Memory
  | [], a, b => if b = unlistedByte then [] else [(a, b)]
  | (k, c) :: m, a, b =>
    if a < k then (if b = unlistedByte then (k, c) :: m else (a, b) :: (k, c) :: m)
    else if a = k then (if b = unlistedByte then m else (a, b) :: m)
    else (k, c) :: memWrite m a b

/-- The canonical form of a memory: addresses strictly rising, no entry equal to what an unlisted address reads as. -/
abbrev Memory.wf (m : Memory) : Prop :=
  (m.map Prod.fst).Pairwise (· < ·) ∧ ∀ c ∈ m, c.2 ≠ unlistedByte

/-- The `n` bytes at `a`, lowest address first. -/
def memReadBytes (m : Memory) (a : Nat) : Nat → List Byte
  | 0 => []
  | n + 1 => memRead m a :: memReadBytes m (a + 1) n

/-- Store bytes at `a`, lowest address first. -/
def memWriteBytes (m : Memory) (a : Nat) : List Byte → Memory
  | [] => m
  | b :: bs => memWriteBytes (memWrite m a b) (a + 1) bs

/-- MemWrite(a, 2, v): the low 16 bits of `v`, little-endian (R62). -/
def memWriteHalf (m : Memory) (a : Nat) (v : Int) : Memory :=
  memWriteBytes m a (bytesOfHalf (BitVec.ofInt 16 v))

/-! ## Ranges of addresses (R69) -/

/-- Two ranges (base, size) share a byte. -/
def rangesOverlap (a la b lb : Nat) : Bool :=
  decide (0 < la) && decide (0 < lb) && decide (a < b + lb) && decide (b < a + la)

/-- The number of bytes of the register block: nine 32-bit registers (R44). -/
def regBlockSize : Nat := 36

/-- The range overlaps the register block or other device space (R69). -/
def overlapsDevice (c : Config) (a n : Nat) : Bool :=
  rangesOverlap a n c.regBase regBlockSize || c.devices.any (fun d => rangesOverlap a n d.1 d.2)

/-- The range overlaps a pinned byte: every entry of Q is pinned, whatever its STATE (R68). -/
def overlapsPinned (q : List Entry) (a n : Nat) : Bool :=
  q.any (fun e => rangesOverlap a n e.base e.len)

/-! ## Voices and queue entries (R24, R25, R37) -/

/-- V[k]. -/
def getVoice (s : State) (k : Nat) : Voice := s.voices.getD k Voice.reset

/-- V[k] <- v. -/
def setVoice (s : State) (k : Nat) (v : Voice) : State := { s with voices := s.voices.set k v }

/-- The entry of that name (R25). -/
def findEntry (q : List Entry) (name : Nat) : Option Entry := q.find? (fun e => e.name == name)

/-- (entry of that name).STATE <- st (R39). -/
def setEntryState (q : List Entry) (name : Nat) (st : EntryState) : List Entry :=
  q.map (fun e => if e.name = name then { e with state := st } else e)

/-- The entry a voice's REQ names gets STATE <- st; nothing for an unbound voice. -/
def setBoundState (q : List Entry) (req : Option Nat) (st : EntryState) : List Entry :=
  match req with
  | none => q
  | some n => setEntryState q n st

/-! ## The fatal fault (R240, R242) and the way out of it (R244, R270) -/

/-- The cause code of the fatal fault (R240); no register holds it. -/
def FatalCause.code : FatalCause → Nat
  | .misalignedLength => 1

/-- `raise Fatal(cause)`: G.FAULT <- 1 and nothing else; the command is abandoned (R240, R242). There is no handler, no
saved state and no mode. -/
def raiseFatal (_cause : FatalCause) (s : State) : State := { s with fault := true }

/-- Reset, the only way out of the fatal fault (R244, R270): every piece of engine state at its reset value, the pins
void without UNPIN (R271), the host memory as it was. The host's later moves are the host's own (log 17). -/
def engineReset (s : State) : State :=
  { State.resetWith s.cfg with mem := s.mem, pending := s.pending }

end Sys2Proof.Machine
end

