-- ==== Sys2Proof/Machine/Flags.lean ====
section
/-! DEFINITION. The conditions rules test (R43). The engine has no arithmetic condition codes. -/

namespace Sys2Proof.Machine

/-- V[k].REQ is not `none` (R25). -/
def isBound (v : Voice) : Bool := v.req.isSome

/-- CUR >= END: instructions exhausted (R27). -/
def exhausted (v : Voice) : Bool := decide (v.endIdx ≤ v.cur)

/-- SLEFT = 0: instruction finished (R33, R152). -/
def instrFinished (v : Voice) : Bool := v.sleft == 0#32

/-- STATE = Waiting (R39). -/
def isWaiting (e : Entry) : Bool := e.state == EntryState.waiting

/-- STATE = Done (R39). -/
def isDone (e : Entry) : Bool := e.state == EntryState.done

/-- Active(): a Waiting entry in Q or a bound voice (R217). -/
def activeNow (s : State) : Bool := s.queue.any isWaiting || s.voices.any isBound

/-- STATUS: bit 0 ACTIVE, bit 1 FAULT, bits 31:2 zero (R46). -/
def statusWord (s : State) : Word :=
  BitVec.ofNat 32 ((if s.active then 1 else 0) + (if s.fault then 2 else 0))

end Sys2Proof.Machine
end

