-- ==== Sys2Proof/Machine/Generators.lean ====
section
/-! DEFINITION. The waveform generators (R120 to R130). -/

namespace Sys2Proof.Machine

/-- SINE_ROM[q] (R132). -/
def romEntry (c : Config) (q : Nat) : Nat := (c.sineRom.toList.getD q 0#15).toNat

/-- SINE: the quarter-wave table reflected into four quadrants (R121). -/
def sineGen (c : Config) (idx : Nat) : Int :=
  let p := if 512 ≤ idx then idx - 512 else idx
  let q := if 256 < p then 512 - p else p
  if 512 ≤ idx then -(romEntry c q : Int) else (romEntry c q : Int)

/-- TRIANGLE (R122). -/
def triangleGen (idx : Nat) : Int :=
  if idx < 512 then (idx : Int) * 128 - 32767 else (1023 - (idx : Int)) * 128 - 32767

/-- SAWTOOTH (R123). -/
def sawtoothGen (idx : Nat) : Int := (idx : Int) * 64 - 32767

/-- SQUARE10 to SQUARE50, duty level `k` in 1..5 (R124 to R128). -/
def squareGen (k idx : Nat) : Int := if idx < 102 * k then 32767 else -32767

/-- The xorshift step of the noise generator (R129): left 13, right 17, left 5, in 32 bits. -/
def noiseStep (x : Word) : Word :=
  let x1 := x ^^^ (x <<< 13)
  let x2 := x1 ^^^ (x1 >>> 17)
  x2 ^^^ (x2 <<< 5)

/-- The amplitude NOISE takes from the new state: the low 16 bits, centred (R129). -/
def noiseAmp (x : Word) : Int := ((x.extractLsb' 0 16).toNat : Int) - 32767

/-- wave(code, idx): the amplitude, and G.NOISE after it (R120). -/
def waveGen (c : Config) (code : Byte) (idx : Nat) (noise : Word) : Int × Word :=
  if code = 1#8 then (triangleGen idx, noise)
  else if code = 2#8 then (sawtoothGen idx, noise)
  else if code = 3#8 then (sineGen c idx, noise)
  else if code = 5#8 then (noiseAmp (noiseStep noise), noiseStep noise)
  else if code = 11#8 then (squareGen 1 idx, noise)
  else if code = 12#8 then (squareGen 2 idx, noise)
  else if code = 13#8 then (squareGen 3 idx, noise)
  else if code = 14#8 then (squareGen 4 idx, noise)
  else if code = 15#8 then (squareGen 5 idx, noise)
  else (0, noise)

/-- The phase position handed to the generator: bits 25:16 of PHASE (R28, R120). -/
def phaseIdx (phase : Word) : Nat := (phase.extractLsb' 16 10).toNat

end Sys2Proof.Machine
end

