-- ==== Sys2Proof/Machine/Operands.lean ====
section
/-! DEFINITION. Operand assembly and clamping of the sound instructions (R91, R95) and the operands of the commands
(R98). -/

namespace Sys2Proof.Machine

/-- clamp(v, lo, hi) of R8. -/
def clampInt (v lo hi : Int) : Int := if v < lo then lo else if hi < v then hi else v

/-- The clamped operands f, ef, sv, ev, d of R95. -/
structure Clamped where
  f  : Nat
  ef : Nat
  sv : Nat
  ev : Nat
  d  : Nat
  deriving DecidableEq, Repr

/-- A frequency: zero-extended, clamped to 20..20000 Hz (R91, R95). -/
def clampFreq (h : Half) : Nat := (clampInt h.toNat 20 20000).toNat

/-- A volume: sign-extended, clamped to 0..1023 (R91, R95). -/
def clampVol (h : Half) : Nat := (clampInt h.toInt 0 1023).toNat

/-- A duration: zero-extended, clamped to 1..60000 ms (R91, R95). -/
def clampDur (h : Half) : Nat := (clampInt h.toNat 1 60000).toNat

/-- The operands every later rule uses (R95). -/
def clampOps (op : SoundOps) : Clamped where
  f  := clampFreq op.frequency
  ef := clampFreq op.endFrequency
  sv := clampVol op.startVolume
  ev := clampVol op.endVolume
  d  := clampDur op.duration

/-- delayMs of PLAY: ARG0 as i32 (R98). -/
def playDelay (s : State) : Int := s.arg0.toInt

/-- BASE of PLAY: ARG1 (R98). -/
def playBase (s : State) : Nat := s.arg1.toNat

/-- LEN of PLAY: ARG2 (R98). -/
def playLen (s : State) : Nat := s.arg2.toNat

/-- DST of RENDER: ARG1 (R98). -/
def renderDst (s : State) : Nat := s.arg1.toNat

/-- n of RENDER: ARG0 as u32 (R98). -/
def renderCount (s : State) : Nat := s.arg0.toNat

end Sys2Proof.Machine
end

