-- ==== Sys2Proof/Machine/Envelope.lean ====
section
/-! DEFINITION. The datapath of one voice: entering an instruction (R140 to R145), the per-sample step (R146 to R151),
the end of an instruction and of a request (R152, R153). The voice is the served one, `srvVoice`, and the sample goes to
element `srvPos` of ACC. -/

namespace Sys2Proof.Machine

/-- ms2s(ms): milliseconds to samples (R141). -/
def ms2s (c : Config) (ms : Nat) : Nat := ms * c.sampleRate / 1000

/-- S: the sample count of an instruction, at least 1 (R142). -/
def sampleCount (c : Config) (d : Nat) : Nat := max 1 (ms2s c d)

/-- tonestep(x) (R144). -/
def tonestep (c : Config) (x : Nat) : Nat := x * 2 ^ 26 / c.sampleRate

/-- The VSTEP of an instruction (R143). -/
def volumeStep (c : Config) (o : Clamped) : Int :=
  Int.tdiv (((o.ev : Int) - (o.sv : Int)) * 2 ^ 16) (sampleCount c o.d)

/-- The TDELTA of an instruction (R145). -/
def toneDelta (c : Config) (o : Clamped) : Int :=
  if o.ef = o.f then 0
  else Int.tdiv ((tonestep c o.ef : Int) - (tonestep c o.f : Int)) (sampleCount c o.d)

/-- The seven registers Enter writes (R140). -/
def enterVoice (c : Config) (code : Byte) (o : Clamped) (v : Voice) : Voice :=
  { v with
    wave   := code
    sleft  := BitVec.ofNat 32 (sampleCount c o.d)
    vol    := BitVec.ofNat 32 (o.sv * 2 ^ 16)
    vstep  := BitVec.ofInt 32 (volumeStep c o)
    tstep  := BitVec.ofNat 32 (tonestep c o.f)
    tdelta := BitVec.ofInt 32 (toneDelta c o)
    cv     := true }

/-- Enter(k) with the operands of the instruction at CUR (R140). -/
def enterInstr (code : Byte) (op : SoundOps) (s : State) : State :=
  setVoice s s.srvVoice (enterVoice s.cfg code (clampOps op) (getVoice s s.srvVoice))

/-- The envelope multiplier (R147): the exact product, shifted right arithmetically by MIXSHIFT. -/
def contribution (c : Config) (amp : Int) (vol : Word) : Int :=
  (amp * (vol.toInt >>> 16)) >>> c.mixshift

/-- The four registers a sample advances, the phase by the old step (R148 to R151). -/
def advanceVoice (v : Voice) : Voice :=
  { v with
    phase := v.phase + v.tstep
    tstep := v.tstep + v.tdelta
    vol   := v.vol + v.vstep
    sleft := v.sleft - 1#32 }

/-- Sample(k, j): one sample of the served voice (R146). -/
def sampleStep (s : State) : State :=
  let v := getVoice s s.srvVoice
  let g := waveGen s.cfg v.wave (phaseIdx v.phase) s.noise
  { setVoice s s.srvVoice (advanceVoice v) with
    noise  := g.2
    acc    := s.acc.modify s.srvPos (· + contribution s.cfg g.1 v.vol)
    srvPos := s.srvPos + 1 }

/-- Samples of the served voice until its instruction is finished or `n` samples are made (R152, R159). -/
def runSamples : Nat → State → State
  | 0, s => s
  | n + 1, s =>
    let s' := sampleStep s
    if instrFinished (getVoice s' s'.srvVoice) then s' else runSamples n s'

/-- Retire(k) (R153). -/
def retireVoice (s : State) : State :=
  let v := getVoice s s.srvVoice
  { setVoice s s.srvVoice { v with req := none } with queue := setBoundState s.queue v.req .done }

/-- The end of an instruction: CUR <- CUR + 1, and the request retires when nothing is left (R152, R153). -/
def endInstr (s : State) : State :=
  let v := getVoice s s.srvVoice
  let v' := { v with cur := v.cur + 1 }
  let s' := setVoice s s.srvVoice v'
  if exhausted v' then retireVoice s' else s'

/-- The rest of the leaf window for the instruction in progress: its samples, and its end when SLEFT reaches 0
(R152, R155). -/
def playOn (s : State) : State :=
  let s' := runSamples (s.acc.length - s.srvPos) s
  if instrFinished (getVoice s' s'.srvVoice) then endInstr s' else s'

/-- The common template of the ten sound instructions (R134): Enter, then play on to the end of the instruction or of
the leaf window; what is left of the instruction is carried in the voice's registers (R155). -/
def playSound (code : Byte) (op : SoundOps) (s : State) : Host.Outcome State Fault Refusal :=
  .next (playOn (enterInstr code op s))

end Sys2Proof.Machine
end

