-- ==== Sys2Proof/Machine/Sound.lean ====
section
/-! DEFINITION. The ten sound instructions (R121 to R130, R134), each the common template with its waveform code. -/

namespace Sys2Proof.Machine

/-- TRIANGLE (R122). -/
def execTriangle (op : SoundOps) (s : State) : Host.Outcome State Fault Refusal := playSound 1#8 op s

/-- SAWTOOTH (R123). -/
def execSawtooth (op : SoundOps) (s : State) : Host.Outcome State Fault Refusal := playSound 2#8 op s

/-- SINE (R121). -/
def execSine (op : SoundOps) (s : State) : Host.Outcome State Fault Refusal := playSound 3#8 op s

/-- NOISE (R129). -/
def execNoise (op : SoundOps) (s : State) : Host.Outcome State Fault Refusal := playSound 5#8 op s

/-- SQUARE10 (R124). -/
def execSquare10 (op : SoundOps) (s : State) : Host.Outcome State Fault Refusal := playSound 11#8 op s

/-- SQUARE20 (R125). -/
def execSquare20 (op : SoundOps) (s : State) : Host.Outcome State Fault Refusal := playSound 12#8 op s

/-- SQUARE30 (R126). -/
def execSquare30 (op : SoundOps) (s : State) : Host.Outcome State Fault Refusal := playSound 13#8 op s

/-- SQUARE40 (R127). -/
def execSquare40 (op : SoundOps) (s : State) : Host.Outcome State Fault Refusal := playSound 14#8 op s

/-- SQUARE50 (R128). -/
def execSquare50 (op : SoundOps) (s : State) : Host.Outcome State Fault Refusal := playSound 15#8 op s

/-- SILENCE, with whichever of its 246 codes (R93, R130). -/
def execSilence (code : Byte) (op : SoundOps) (s : State) : Host.Outcome State Fault Refusal :=
  playSound code op s

end Sys2Proof.Machine
end

