-- ==== Sys2Proof/Machine/Mixer.lean ====
section
/-! DEFINITION. A voice over a leaf window (R159), instruction by instruction, and the mixer (R170 to R177). -/

namespace Sys2Proof.Machine

/-- The instruction of a sound program, as RENDER runs it: the same meanings `exec` calls. A program holds no command
(R210), and none decodes from one. -/
def execInProgram (i : Instr) (s : State) : Host.Outcome State Fault Refusal :=
  match i with
  | .triangle op => execTriangle op s
  | .sawtooth op => execSawtooth op s
  | .sine op => execSine op s
  | .noise op => execNoise op s
  | .square10 op => execSquare10 op s
  | .square20 op => execSquare20 op s
  | .square30 op => execSquare30 op s
  | .square40 op => execSquare40 op s
  | .square50 op => execSquare50 op s
  | .silence code op => execSilence code op s
  | .play => .refused .commandInProgram
  | .stop => .refused .commandInProgram
  | .render => .refused .commandInProgram
  | .cmdReserved _ => .refused .commandInProgram

/-- The 12 bytes at the served voice's cursor: BASE + 12 * CUR of the entry REQ names (R63). -/
def fetchBytes (s : State) : Host.Outcome (List Byte) Fault Refusal :=
  match (getVoice s s.srvVoice).req.bind (findEntry s.queue) with
  | none => .fault .noSuchEntry
  | some e =>
    let a := e.base + instrSize * (getVoice s s.srvVoice).cur
    if a + instrSize ≤ s.cfg.memSize then .next (memReadBytes s.mem a instrSize) else .fault .outsideMemory

/-- Fetch, decode and run the instruction at the served voice's cursor (R63, R140, R152). -/
def fetchAndRun (s : State) : Host.Outcome State Fault Refusal :=
  andThen (fetchBytes s) fun bs =>
    match decode .program bs with
    | .ok i _ => execInProgram i s
    | .reject _ => .refused .commandInProgram

/-- After an instruction's share of the window: where it finished and the request goes on, the next one is entered at
once (R152), and so on. Each instruction takes at least one sample, so `fuel` above the window's length suffices. -/
def runOn : Nat → State → Host.Outcome State Fault Refusal
  | 0, s => .next s
  | fuel + 1, s =>
    let v := getVoice s s.srvVoice
    if isBound v && instrFinished v then andThen (fetchAndRun s) (runOn fuel) else .next s

/-- RunVoice(k, n) of the bound voice `k`, n the length of ACC (R159): a fresh voice retires when its request is empty
(R158) or enters its first instruction (R154); a running one plays on (R155). -/
def runVoice (k : Nat) (s : State) : Host.Outcome State Fault Refusal :=
  let s0 := { s with srvVoice := k, srvPos := 0 }
  let v := getVoice s k
  if v.cv then runOn (s.acc.length + 1) (playOn s0)
  else if exhausted v then .next (retireVoice s0)
  else andThen (fetchAndRun s0) (runOn (s.acc.length + 1))

/-- The voices of the list in its order, each over the whole window, the unbound ones skipped (R172). -/
def runVoices : List Nat → State → Host.Outcome State Fault Refusal
  | [], s => .next s
  | k :: ks, s => andThen (if isBound (getVoice s k) then runVoice k s else .next s) (runVoices ks)

/-- The mixer's saturation (R174). -/
def saturate (c : Config) (x : Int) : Int := clampInt x (-(c.maxval : Int)) c.maxval

/-- The samples stored from `dst` on, one halfword each (R65, R175). -/
def storeSamples (c : Config) : Nat → List Int → Memory → Memory
  | _, [], m => m
  | dst, x :: xs, m => storeSamples c (dst + 2) xs (memWriteHalf m dst (saturate c x))

/-- The start of a leaf window of `n` samples: ACC zeroed (R171). -/
def openWindow (n : Nat) (s : State) : State :=
  { s with acc := List.replicate n 0, srvVoice := 0, srvPos := 0 }

/-- The end of a leaf window: saturate, store, advance the clock by its length (R174, R175, R177). -/
def closeWindow (dst : Nat) (s : State) : State :=
  { s with
    mem      := storeSamples s.cfg dst s.acc s.mem
    curr     := s.curr + BitVec.ofNat 64 s.acc.length
    acc      := []
    srvVoice := 0
    srvPos   := 0 }

/-- Leaf(DST, n) (R170): the state after, and the activity predicate evaluated before the voices run (R217). -/
def leafWindow (dst n : Nat) (s : State) : Host.Outcome (State × Bool) Fault Refusal :=
  andThen (runVoices (List.range s.cfg.maxVoices) (openWindow n s)) fun s' =>
    .next (closeWindow dst s', activeNow s)

end Sys2Proof.Machine
end

