-- ==== Sys2Proof/Machine/Scheduler.lean ====
section
/-! DEFINITION. The voice-scheduling state machine (R185 to R193). -/

namespace Sys2Proof.Machine

/-- min(t, x) where NONE counts as +infinity (R185, R188). -/
def minLeft (t : Option Nat) (x : Nat) : Option Nat :=
  match t with
  | none => some x
  | some y => some (min y x)

/-- One scan of Q from the head (R185 to R188): the first due entry, or the time left to the next Waiting one. -/
def scanQueue (curr : Clock) : List Entry → Option Nat → Option Entry × Option Nat
  | [], t => (none, t)
  | e :: q, t =>
    if isWaiting e then
      if e.start.toNat ≤ curr.toNat then (some e, t)
      else scanQueue curr q (minLeft t (e.start.toNat - curr.toNat))
    else scanQueue curr q t

/-- The free voice of the lowest index (R189). -/
def freeVoice (vs : List Voice) : Option Nat := vs.findIdx? (fun v => !isBound v)

/-- The voice with the smallest START, the lowest index among equals (R190); `k` is the index of the head of the list
and `best` the best voice before it. -/
def oldestFrom : List Voice → Nat → Nat × Clock → Nat
  | [], _, best => best.1
  | v :: vs, k, best =>
    if v.start.toNat < best.2.toNat then oldestFrom vs (k + 1) (k, v.start) else oldestFrom vs (k + 1) best

/-- The victim of an eviction (R190). -/
def oldestVoice : List Voice → Nat
  | [] => 0
  | v :: vs => oldestFrom vs 1 (0, v.start)

/-- The voice Promote binds (R189, R190). -/
def chooseVoice (vs : List Voice) : Nat :=
  match freeVoice vs with
  | some k => k
  | none => oldestVoice vs

/-- The registers binding writes; PHASE and the envelope registers are left alone (R192, R193). -/
def bindVoice (e : Entry) (curr : Clock) (v : Voice) : Voice :=
  { v with req := some e.name, start := curr, cur := 0, endIdx := e.len / instrSize, cv := false }

/-- Promote(e) (R189 to R192): a chosen voice that is bound is evicted, its entry Done. -/
def promote (e : Entry) (s : State) : State :=
  let k := chooseVoice s.voices
  let v := getVoice s k
  { setVoice s k (bindVoice e s.curr v) with
    queue := setEntryState (setBoundState s.queue v.req .done) e.name .playing }

/-- The loop of Schedule(): every pass promotes one Waiting entry, so `fuel` above their number suffices (R194). -/
def scheduleLoop : Nat → State → State × Option Nat
  | 0, s => (s, none)
  | fuel + 1, s =>
    match scanQueue s.curr s.queue none with
    | (some e, _) => scheduleLoop fuel (promote e s)
    | (none, t) => (s, t)

/-- Schedule() (R185): the state after, and timeLeft. -/
def schedule (s : State) : State × Option Nat := scheduleLoop (s.queue.length + 1) s

end Sys2Proof.Machine
end

