-- ==== Sys2Proof/Machine/Commands.lean ====
section
/-! DEFINITION. The host commands (R210 to R220, R240 to R251), on abstract operands and as the CMD words. The checks
come in the order of R247: FAULT, refusals, PLAY's length, the operation. -/

namespace Sys2Proof.Machine

/-! ## PLAY -/

/-- START of a request (R212), before it is known to fit 64 bits. -/
def playStart (s : State) (delayMs : Int) : Nat := s.curr.toNat + ms2s s.cfg (max delayMs 0).toNat

/-- QUEUE_CAP is set and Q already holds that many entries the sweep would not remove (R211, D18). -/
def queueFull (s : State) : Bool :=
  match s.cfg.queueCap with
  | none => false
  | some n => decide (n ≤ (s.queue.filter (fun e => !isDone e)).length)

/-- Why a PLAY is refused, if it is (R69, R211, R251). -/
def playRefusal (delayMs : Int) (base len : Nat) (s : State) : Option Refusal :=
  if s.cfg.memSize ≤ base ∨ s.cfg.memSize ≤ len ∨ s.cfg.memSize < base + len then some .addressRange
  else if overlapsDevice s.cfg base len then some .deviceSpace
  else if 2 ^ 64 ≤ playStart s delayMs then some .clockOverflow
  else if queueFull s then some .queueFull
  else none

/-- The UNPIN events of a list of entries, in its order (R68). -/
def unpins (q : List Entry) : List PinEvent := q.map (fun e => .unpin e.base e.len)

/-- Sweep(): the Done entries leave Q, each with its UNPIN (R213). -/
def sweep (s : State) : State :=
  { s with
    queue := s.queue.filter (fun e => !isDone e)
    pins  := s.pins ++ unpins (s.queue.filter isDone) }

/-- The entry a PLAY makes (R211, R212). -/
def newEntry (delayMs : Int) (base len : Nat) (s : State) : Entry where
  name  := s.nextName
  base  := base
  len   := len
  state := .waiting
  start := BitVec.ofNat 64 (playStart s delayMs)

/-- The new entry pinned and pushed at the head of Q (R211). -/
def enqueue (delayMs : Int) (base len : Nat) (s : State) : State :=
  { s with
    queue    := newEntry delayMs base len s :: s.queue
    pins     := s.pins ++ [.pin base len]
    nextName := s.nextName + 1 }

/-- PLAY(delayMs, BASE, LEN) (R211). -/
def playCommand (delayMs : Int) (base len : Nat) (s : State) : Host.Outcome State Fault Refusal :=
  if s.fault then .next s
  else
    match playRefusal delayMs base len s with
    | some r => .refused r
    | none =>
      if len % instrSize ≠ 0 then .next (raiseFatal .misalignedLength s)
      else .next (sweep (enqueue delayMs base len s))

/-! ## STOP -/

/-- STOP (R214). -/
def stopCommand (s : State) : Host.Outcome State Fault Refusal :=
  if s.fault then .next s
  else
    .next { s with
      pins   := s.pins ++ unpins s.queue
      queue  := []
      voices := s.voices.map (fun v => { v with req := none }) }

/-! ## RENDER -/

/-- Render1(DST, n) (R215, R216): the state after, and the result. Both sub-windows of a split are shorter than the
window, so `fuel` not below `n` suffices (R219). -/
def render1 : Nat → Nat → Nat → State → Host.Outcome (State × Bool) Fault Refusal
  | 0, _, _, s => .next (s, activeNow s)
  | fuel + 1, dst, n, s =>
    match schedule s with
    | (s1, some t) =>
      if t < n then
        andThen (render1 fuel dst t s1) fun a =>
          andThen (render1 fuel (dst + 2 * t) (n - t) a.1) fun b => .next (b.1, a.2 || b.2)
      else leafWindow dst n s1
    | (s1, none) => leafWindow dst n s1

/-- Why a RENDER is refused, if it is (R69, R251). -/
def renderRefusal (dst n : Nat) (s : State) : Option Refusal :=
  if s.cfg.memSize ≤ dst ∨ s.cfg.memSize < dst + 2 * n then some .addressRange
  else if overlapsDevice s.cfg dst (2 * n) then some .deviceSpace
  else if overlapsPinned s.queue dst (2 * n) then some .pinnedWindow
  else if 2 ^ 64 ≤ s.curr.toNat + n then some .clockOverflow
  else none

/-- RENDER(DST, n) (R215): the result bit goes to G.ACTIVE (R42). -/
def renderCommand (dst n : Nat) (s : State) : Host.Outcome State Fault Refusal :=
  if s.fault then .next s
  else
    match renderRefusal dst n s with
    | some r => .refused r
    | none =>
      if n = 0 then .next { s with active := activeNow s }
      else andThen (render1 n dst n s) fun r => .next { r.1 with active := r.2 }

/-! ## The CMD words (R47, R98, R99) -/

/-- PLAY: CMD = 1, operands in ARG0 to ARG2 (R211). -/
def execPlay (s : State) : Host.Outcome State Fault Refusal :=
  playCommand (playDelay s) (playBase s) (playLen s) s

/-- STOP: CMD = 2 (R214). -/
def execStop (s : State) : Host.Outcome State Fault Refusal := stopCommand s

/-- RENDER: CMD = 3, operands in ARG0 and ARG1 (R215). -/
def execRender (s : State) : Host.Outcome State Fault Refusal :=
  renderCommand (renderDst s) (renderCount s) s

/-- A reserved CMD value: nothing happens (R99; log 11). -/
def execCmdReserved (_w : Word) (s : State) : Host.Outcome State Fault Refusal := .next s

/-- A command on abstract operands (R98, R210). -/
def runCommand (c : Command) (s : State) : Host.Outcome State Fault Refusal :=
  match c with
  | .play delayMs base len => playCommand delayMs.toInt base len s
  | .stop => stopCommand s
  | .render dst n => renderCommand dst n.toNat s

end Sys2Proof.Machine
end

