-- ==== Sys2Proof/Machine/Dispatch.lean ====
section
/-! DEFINITION. The meaning of every instruction, one arm per constructor. -/

namespace Sys2Proof.Machine

def exec (i : Instr) (s : State) : Host.Outcome State Fault Refusal :=
  match i with
  | .triangle op => Sys2Proof.Machine.execTriangle op s
  | .sawtooth op => Sys2Proof.Machine.execSawtooth op s
  | .sine op => Sys2Proof.Machine.execSine op s
  | .noise op => Sys2Proof.Machine.execNoise op s
  | .square10 op => Sys2Proof.Machine.execSquare10 op s
  | .square20 op => Sys2Proof.Machine.execSquare20 op s
  | .square30 op => Sys2Proof.Machine.execSquare30 op s
  | .square40 op => Sys2Proof.Machine.execSquare40 op s
  | .square50 op => Sys2Proof.Machine.execSquare50 op s
  | .silence code op => Sys2Proof.Machine.execSilence code op s
  | .play => Sys2Proof.Machine.execPlay s
  | .stop => Sys2Proof.Machine.execStop s
  | .render => Sys2Proof.Machine.execRender s
  | .cmdReserved w => Sys2Proof.Machine.execCmdReserved w s

end Sys2Proof.Machine
end

