-- ==== Sys2Proof/Machine/Bus.lean ====
section
/-! DEFINITION. The host's moves: the register block (R44 to R48), the host's own loads and stores (R60, R67, R71),
commands and reset; and how a program is placed from outside. -/

namespace Sys2Proof.Machine

/-- The registers of the block (R44). -/
inductive HostReg where
  | cmd
  | arg0
  | arg1
  | arg2
  | status
  | clockLo
  | clockHi
  | cfgRate
  | cfgMisc
  deriving DecidableEq, Repr

/-- The register at an offset of the table (R44). -/
def hostReg (off : Nat) : Option HostReg :=
  if off = 0x00 then some .cmd
  else if off = 0x04 then some .arg0
  else if off = 0x08 then some .arg1
  else if off = 0x0C then some .arg2
  else if off = 0x10 then some .status
  else if off = 0x14 then some .clockLo
  else if off = 0x18 then some .clockHi
  else if off = 0x1C then some .cfgRate
  else if off = 0x20 then some .cfgMisc
  else none

/-- What a register reads (R44 to R46, R48). -/
def readReg (s : State) : HostReg → Word
  | .cmd => 0#32
  | .arg0 => s.arg0
  | .arg1 => s.arg1
  | .arg2 => s.arg2
  | .status => statusWord s
  | .clockLo => s.curr.extractLsb' 0 32
  | .clockHi => s.curr.extractLsb' 32 32
  | .cfgRate => BitVec.ofNat 32 (s.cfg.sampleRate % 2 ^ 20)
  | .cfgMisc => BitVec.ofNat 32 (s.cfg.outputBits % 2 ^ 5 + 2 ^ 8 * (s.cfg.maxVoices % 2 ^ 8))

/-- The instruction a CMD value decodes to, through the decoder (R47). -/
def decodeCmdWord (w : Word) : Instr :=
  match decode .command (bytesOfWord w) with
  | .ok i _ => i
  | .reject _ => .cmdReserved w

/-- A write of a register: CMD runs a command (R47), the arguments are written (R45), the others ignore it (R45). -/
def writeReg (r : HostReg) (w : Word) (s : State) : Host.Outcome State Fault Refusal :=
  match r with
  | .cmd => exec (decodeCmdWord w) s
  | .arg0 => .next { s with arg0 := w }
  | .arg1 => .next { s with arg1 := w }
  | .arg2 => .next { s with arg2 := w }
  | .status => .next s
  | .clockLo => .next s
  | .clockHi => .next s
  | .cfgRate => .next s
  | .cfgMisc => .next s

/-- The access touches the register block (R44). -/
def hitsRegBlock (c : Config) (addr width : Nat) : Bool := rangesOverlap addr width c.regBase regBlockSize

/-- The register an access of `width` bytes at `addr` goes to, or why it is refused (R44). -/
def accessedReg (c : Config) (addr width : Nat) : Host.Outcome HostReg Fault Refusal :=
  if c.addrBits ≠ 32 then .refused .registerMapUndefined
  else if width ≠ 4 ∨ addr % 4 ≠ 0 then .refused .registerAccess
  else
    match hostReg (addr - c.regBase) with
    | some r => .next r
    | none => .refused .registerAccess

/-- A host bus read: a register (R44, no side effect) or bytes of the host memory (R60, R71). Past the last address
there is nothing to read, a register neither: the part of a register block that would lie there is not reached and the
address does not wrap (R60; log 12, and for the register block log 24, DESIGN CHOICE, safe). -/
def busRead (addr width : Nat) (s : State) : Host.Outcome State Fault Refusal :=
  if s.cfg.memSize < addr + width then .fault .outsideMemory
  else if hitsRegBlock s.cfg addr width then
    andThen (accessedReg s.cfg addr width) fun r => .next { s with busOut := bytesOfWord (readReg s r) }
  else if overlapsDevice s.cfg addr width then .refused .deviceSpace
  else .next { s with busOut := memReadBytes s.mem addr width }

/-- The word of the bytes of a register write (R61). -/
def wordOfBytes : List Byte → Word
  | [b0, b1, b2, b3] => le32 b0 b1 b2 b3
  | _ => 0#32

/-- A host bus write: a register (R44) or bytes of the host memory, none of them pinned (R60, R67, R71). Past the last
address nothing is written, as `busRead` reads nothing there (R60; log 12, log 24, DESIGN CHOICE, safe). -/
def busWrite (addr : Nat) (bytes : List Byte) (s : State) : Host.Outcome State Fault Refusal :=
  if s.cfg.memSize < addr + bytes.length then .fault .outsideMemory
  else if hitsRegBlock s.cfg addr bytes.length then
    andThen (accessedReg s.cfg addr bytes.length) fun r => writeReg r (wordOfBytes bytes) s
  else if overlapsDevice s.cfg addr bytes.length then .refused .deviceSpace
  else if overlapsPinned s.queue addr bytes.length then .refused .pinnedWrite
  else .next { s with mem := memWriteBytes s.mem addr bytes }

/-- One move of the host. -/
def perform (a : HostAction) (s : State) : Host.Outcome State Fault Refusal :=
  match a with
  | .busRead addr width => busRead addr width s
  | .busWrite addr bytes => busWrite addr bytes s
  | .command c => runCommand c s
  | .reset => .next (engineReset s)

/-- The next pending move; with none the engine is idle and holds its state (R256, R270). An illegal configuration has
no meaning (R5). -/
def hostStep (s : State) : Host.Outcome State Fault Refusal :=
  if s.cfg.Legal then
    match s.pending with
    | [] => .next s
    | a :: rest => perform a { s with pending := rest }
  else .refused .illegalConfig

/-! ## Placing an instruction where the next step runs it (log 18) -/

/-- Where `placeSound` puts the instruction. -/
def slotBase : Nat := 0x1000

/-- Where the RENDER of `placeSound` stores its sample. -/
def slotDst : Word := 0x2000#32

/-- A one-instruction program, already PLAYed and due, with every voice free, and a RENDER of one sample as the host's
next move: what it takes for the next step to run the instruction `w`. -/
def placeSound (s : State) (w : Nat) : State :=
  { s with
    fault    := false
    mem      := memWriteBytes s.mem slotBase (bytesOfNat instrSize w)
    queue    := [{ name := s.nextName, base := slotBase, len := instrSize, state := .waiting, start := s.curr }]
    nextName := s.nextName + 1
    voices   := s.voices.map (fun v => { v with req := none })
    arg0     := 1#32
    arg1     := slotDst
    pending  := .busWrite s.cfg.regBase (bytesOfWord 3#32) :: s.pending }

/-- A write of `w` to CMD as the host's next move. -/
def placeCommand (s : State) (w : Nat) : State :=
  { s with pending := .busWrite s.cfg.regBase (bytesOfNat 4 w) :: s.pending }

end Sys2Proof.Machine
end

