-- ==== Sys2Proof/Machine/Step.lean ====
section
/-! DEFINITION. One step: the host's next move, a command being one step (R70, R286); and how the host of this package
places an instruction. -/

namespace Sys2Proof.Machine

/-- One step of the machine. -/
def step (s : State) : Host.Outcome State Fault Refusal := hostStep s

/-- The instruction placed where `step` runs it next: a 96-bit row as a due one-instruction program with a RENDER
pending, any other row as a pending CMD write (log 18). -/
def State.withFetchWord (s : State) (nbits w : Nat) : State :=
  if nbits = 96 then placeSound s w else placeCommand s w

end Sys2Proof.Machine
end

