-- ==== Sys2Proof/Safety.lean ====
section
/-! DEFINITION. What a good state is, the invariants of R36, R40, R157 and R197, and the terms the statements are
written in. -/

namespace Sys2Proof.Machine

/-! ## Safety -/

/-- The fatal state: "A model must treat a state with G.FAULT = 1 as a fault outcome and never as a good final state"
(R242). -/
abbrev State.Dead (s : State) : Prop := s.fault = true

/-- A good outcome of a step: a next state that is not the fatal one (R242). -/
def GoodOutcome : Host.Outcome State Fault Refusal → Prop
  | .next s => ¬ s.Dead
  | .fault _ => False
  | .refused _ => False

/-! ## Invariants between host moves -/

/-- The host memory is in canonical form and inside the address space (R60). -/
abbrev MemInv (s : State) : Prop := Memory.wf s.mem ∧ ∀ c ∈ s.mem, c.1 < s.cfg.memSize

/-- What PLAY let into Q: the length of R40(d), the ranges of R69. -/
abbrev EntryOk (c : Config) (e : Entry) : Prop :=
  e.len % 12 = 0 ∧ e.base < c.memSize ∧ e.len < c.memSize ∧ e.base + e.len ≤ c.memSize ∧
  overlapsDevice c e.base e.len = false

/-- Entry names are distinct and older than the next one (R25); a Waiting entry is not overdue (R197(a)). -/
abbrev QueueInv (s : State) : Prop :=
  (s.queue.map Entry.name).Nodup ∧
  ∀ e ∈ s.queue, e.name < s.nextName ∧ EntryOk s.cfg e ∧
    (e.state = .waiting → s.curr.toNat ≤ e.start.toNat)

/-- The bounds of R157 (a) to (c), with the end of each ramp inside them too. -/
abbrev RampOk (c : Config) (v : Voice) : Prop :=
  1 ≤ v.sleft.toNat ∧ v.sleft.toNat ≤ 60000000 ∧
  0 ≤ v.vol.toInt ∧ v.vol.toInt ≤ 1023 * 2 ^ 16 ∧
  0 ≤ v.vol.toInt + (v.sleft.toNat : Int) * v.vstep.toInt ∧
  v.vol.toInt + (v.sleft.toNat : Int) * v.vstep.toInt ≤ 1023 * 2 ^ 16 ∧
  tonestep c 20 ≤ v.tstep.toNat ∧ v.tstep.toNat ≤ tonestep c 20000 ∧
  (tonestep c 20 : Int) ≤ (v.tstep.toNat : Int) + (v.sleft.toNat : Int) * v.tdelta.toInt ∧
  (v.tstep.toNat : Int) + (v.sleft.toNat : Int) * v.tdelta.toInt ≤ tonestep c 20000

/-- A voice bound to the entry `e` (R36(a) and (c), R157, R197(b)). -/
abbrev BoundOk (s : State) (v : Voice) (e : Entry) : Prop :=
  e.state = .playing ∧ v.start = e.start ∧ v.start.toNat ≤ s.curr.toNat ∧
  v.endIdx = e.len / 12 ∧ v.cur ≤ v.endIdx ∧
  (v.cv = true → v.cur < v.endIdx ∧ RampOk s.cfg v) ∧ (v.cv = false → v.cur = 0)

/-- MAX_VOICES voices; a bound voice names an entry of Q and is as `BoundOk` says; no two voices name one entry; every
Playing entry is named by a voice (R24, R36, R40(a)). -/
abbrev VoicesInv (s : State) : Prop :=
  s.voices.length = s.cfg.maxVoices ∧
  (∀ v ∈ s.voices, v.req = none ∨ v.req ∈ s.queue.map (fun e => some e.name)) ∧
  (∀ v ∈ s.voices, ∀ e ∈ s.queue, v.req = some e.name → BoundOk s v e) ∧
  (s.voices.filterMap Voice.req).Nodup ∧
  (∀ e ∈ s.queue, e.state = .playing → some e.name ∈ s.voices.map Voice.req)

/-- No command is in progress: the transient fields are clear (R41, R70). -/
abbrev IdleInv (s : State) : Prop := s.acc = [] ∧ s.srvVoice = 0 ∧ s.srvPos = 0

/-- The invariant between host moves (R5, R22, R36, R40, R157, R197). -/
abbrev Inv (s : State) : Prop :=
  s.cfg.Legal ∧ MemInv s ∧ QueueInv s ∧ VoicesInv s ∧ IdleInv s ∧ s.noise ≠ 0#32

/-- The operands standing in memory at the address of an instruction (R90). -/
def opsAt (m : Memory) (a : Nat) : SoundOps where
  flags        := memRead m (a + 1)
  frequency    := le16 (memRead m (a + 2)) (memRead m (a + 3))
  duration     := le16 (memRead m (a + 4)) (memRead m (a + 5))
  startVolume  := le16 (memRead m (a + 6)) (memRead m (a + 7))
  endVolume    := le16 (memRead m (a + 8)) (memRead m (a + 9))
  endFrequency := le16 (memRead m (a + 10)) (memRead m (a + 11))

/-- A running voice's registers are those of the instruction at its cursor, `S - SLEFT` samples after its entry (R34,
R35, R155, R156). -/
abbrev CarriedOk (c : Config) (m : Memory) (e : Entry) (v : Voice) : Prop :=
  let a := e.base + 12 * v.cur
  let o := clampOps (opsAt m a)
  let made : Int := (sampleCount c o.d : Int) - (v.sleft.toNat : Int)
  1 ≤ v.sleft.toNat ∧ 0 ≤ made ∧ v.wave = memRead m a ∧
  v.vstep.toInt = volumeStep c o ∧ v.tdelta.toInt = toneDelta c o ∧
  v.vol.toInt = (o.sv : Int) * 2 ^ 16 + made * volumeStep c o ∧
  (v.tstep.toNat : Int) = (tonestep c o.f : Int) + made * toneDelta c o

/-- Every running voice is as `CarriedOk` says. -/
abbrev Carried (s : State) : Prop :=
  ∀ v ∈ s.voices, ∀ e ∈ s.queue, v.req = some e.name → v.cv = true → CarriedOk s.cfg s.mem e v

/-- Every entry of Q was pinned once and not unpinned; every removed one was unpinned once (R68). -/
def PinsBalanced (s : State) : Prop :=
  ∀ base len, s.pins.count (.pin base len) =
    s.pins.count (.unpin base len) + s.queue.countP (fun e => e.base == base && e.len == len)

/-! ## Terms of the statements -/

/-- The samples an instruction entered now makes in the leaf window: all of them, or as many as the window has left. -/
def samplesMade (s : State) (op : SoundOps) : Nat :=
  min (sampleCount s.cfg (clampOps op).d) (s.acc.length - s.srvPos)

/-- G.NOISE after `n` draws (R129). -/
def noiseAfter : Nat → Word → Word
  | 0, x => x
  | n + 1, x => noiseAfter n (noiseStep x)

/-- PHASE after `j` samples of an instruction entered at PHASE `p` (R148, R149). -/
def phaseAfter (c : Config) (o : Clamped) (p : Word) (j : Nat) : Word :=
  p + BitVec.ofInt 32 ((j : Int) * (tonestep c o.f : Int) + ((j * (j - 1) / 2 : Nat) : Int) * toneDelta c o)

/-- The contribution of amplitude `amp` at sample `j` of an instruction (R143, R147, R150), as exact integer
division. -/
def contributionAt (c : Config) (o : Clamped) (amp : Int) (j : Nat) : Int :=
  amp * (((o.sv : Int) * 2 ^ 16 + (j : Int) * volumeStep c o) / 2 ^ 16) / 2 ^ (26 - c.outputBits)

/-- The immutable part of an entry (R38). -/
def Entry.request (e : Entry) : Nat × Nat × Nat × Clock := (e.name, e.base, e.len, e.start)

/-- The moves of STATE that R39 allows, to itself among them. -/
def EntryState.mayBecome : EntryState → EntryState → Prop
  | .waiting, _ => True
  | .playing, .waiting => False
  | .playing, _ => True
  | .done, .done => True
  | .done, _ => False

/-- The sample stored at `a`: the halfword there, signed (R65). -/
def sampleAt (m : Memory) (a : Nat) : Int := (le16 (memRead m a) (memRead m (a + 1))).toInt

/-- RENDER as the loop R219 describes: "iterates: schedule, render min(t, remaining) samples, repeat". -/
def renderLoop : Nat → Nat → Nat → State → Host.Outcome (State × Bool) Fault Refusal
  | 0, _, _, s => .next (s, activeNow s)
  | fuel + 1, dst, n, s =>
    let (s1, t) := schedule s
    let m := min (t.getD n) n
    andThen (leafWindow dst m s1) fun a =>
      if n ≤ m then .next a
      else andThen (renderLoop fuel (dst + 2 * m) (n - m) a.1) fun b => .next (b.1, a.2 || b.2)

/-- Enter(k) at the cursor: fetch and enter, no sample (R140). -/
def enterAtCursor (s : State) : Host.Outcome State Fault Refusal :=
  andThen (fetchBytes s) fun bs =>
    match decode .program bs with
    | .ok i _ =>
      match i.sound with
      | some (code, op) => .next (enterInstr code op s)
      | none => .refused .commandInProgram
    | .reject _ => .refused .commandInProgram

/-- One turn of the block of R159 for the served voice: the state after, and whether the voice goes on. A fresh voice
retires if its request is empty and else enters its first instruction; then one sample, and at its end the next
instruction or the retirement. -/
def voiceSample (s : State) : Host.Outcome (State × Bool) Fault Refusal :=
  let v := getVoice s s.srvVoice
  if v.cv = false ∧ v.endIdx ≤ v.cur then .next (retireVoice s, false)
  else
    andThen (if v.cv = false then enterAtCursor s else .next s) fun s1 =>
      let s2 := sampleStep s1
      let w := getVoice s2 s2.srvVoice
      if w.sleft = 0#32 then
        let s3 := setVoice s2 s2.srvVoice { w with cur := w.cur + 1 }
        if w.endIdx ≤ w.cur + 1 then .next (retireVoice s3, false)
        else andThen (enterAtCursor s3) fun s4 => .next (s4, true)
      else .next (s2, true)

/-- RunVoice(k, n) sample by sample, as the block of R159 reads, for the served voice and the `n` samples from
`srvPos` on. -/
def runVoiceBySamples : Nat → State → Host.Outcome State Fault Refusal
  | 0, s => .next s
  | n + 1, s => andThen (voiceSample s) fun r => if r.2 then runVoiceBySamples n r.1 else .next r.1

/-- The voices of the list, each bound one run alone on a zeroed window of `n` samples in the state the voices before it
left: what each adds to each sample, and the state after them all (R171 to R173, R178). -/
def soloRuns (n : Nat) : List Nat → State → Host.Outcome (List (List Int) × State) Fault Refusal
  | [], s => .next ([], s)
  | k :: ks, s =>
    if isBound (getVoice s k) then
      andThen (runVoiceBySamples n { s with acc := List.replicate n 0, srvVoice := k, srvPos := 0 }) fun t =>
        andThen (soloRuns n ks t) fun r => .next (t.acc :: r.1, r.2)
    else soloRuns n ks s

/-- The sum over the voices of what each adds to sample `j`, between -MAXVAL and MAXVAL (R173, R174). -/
def saturatedSum (c : Config) (runs : List (List Int)) (j : Nat) : Int :=
  let maxval : Int := 2 ^ (c.outputBits - 1) - 1
  max (-maxval) (min maxval ((runs.map fun r => r.getD j 0).sum))

/-- The next sample of the served voice is one of a NOISE instruction. -/
def nextSampleIsNoise (s : State) : Bool :=
  let v := getVoice s s.srvVoice
  if v.cv then v.wave == 5#8
  else if v.endIdx ≤ v.cur then false
  else
    match enterAtCursor s with
    | .next t => (getVoice t t.srvVoice).wave == 5#8
    | .fault _ => false
    | .refused _ => false

/-- The served voice plays NOISE at one of its next `n` samples. -/
def playsNoiseWithin : Nat → State → Bool
  | 0, _ => false
  | n + 1, s =>
    nextSampleIsNoise s ||
      match voiceSample s with
      | .next (t, true) => playsNoiseWithin n t
      | .next (_, false) => false
      | .fault _ => false
      | .refused _ => false

/-- In a leaf window of `n` samples opened at `s` at most one voice plays NOISE. -/
def oneNoiseVoiceInLeaf (n : Nat) (s : State) : Bool :=
  decide ((List.range s.cfg.maxVoices).countP (fun k =>
    isBound (getVoice s k) && playsNoiseWithin n { s with srvVoice := k, srvPos := 0 }) ≤ 1)

/-- In every leaf window of a RENDER of `n` samples, the windows of the loop of R219, at most one voice plays NOISE. -/
def oneNoiseVoice : Nat → Nat → Nat → State → Bool
  | 0, _, _, _ => true
  | fuel + 1, dst, n, s =>
    let (s1, t) := schedule s
    let m := min (t.getD n) n
    oneNoiseVoiceInLeaf m s1 &&
      (decide (n ≤ m) ||
        match leafWindow dst m s1 with
        | .next a => oneNoiseVoice fuel (dst + 2 * m) (n - m) a.1
        | .fault _ => true
        | .refused _ => true)

end Sys2Proof.Machine
end

