-- ==== Sys2Proof/Certificates/Slice0/Obligations.lean ====
section
/-! DEFINITION. The statements for the provers, in the order of OBLIGATIONS.json. -/

open Sys2Proof Sys2Proof.Machine

/-! ## Encoding -/

/-- Decoding an encoded well-formed instruction gives it back and leaves the bytes after it, in its own encoding space
(R90 to R93, R98, R99). -/
def Obligations.DecodeOfEncodeIsTheInstruction : Prop :=
  ∀ (i : Instr) (rest : List Byte), WellFormed i = true →
    decode i.space (encode i ++ rest) = .ok i rest

/-- What decodes is well-formed, of the space it was read from, and encodes to the bytes read: no bit is dropped
(R90, R93, R98, R99). -/
def Obligations.EncodeOfDecodeIsTheBytes : Prop :=
  ∀ (sp : Space) (bs rest : List Byte) (i : Instr), decode sp bs = .ok i rest →
    WellFormed i = true ∧ i.space = sp ∧ encode i ++ rest = bs

/-- Bytes written out in the spec (R100, 95_test_vectors.md V1, R98) decode to the instructions they stand for. -/
def Obligations.WrittenOutBytesDecode : Prop :=
  decode .program [0x03#8, 0x00#8, 0xB8#8, 0x01#8, 0x0A#8, 0x00#8, 0xFF#8, 0x03#8, 0x00#8, 0x00#8, 0xB8#8, 0x01#8] =
    .ok (.sine ⟨0x00#8, 440#16, 10#16, 1023#16, 0#16, 440#16⟩) [] ∧
  decode .program [0x0B#8, 0x00#8, 0x13#8, 0x00#8, 0x61#8, 0xEA#8, 0x00#8, 0x80#8, 0xFF#8, 0x7F#8, 0x21#8, 0x4E#8] =
    .ok (.square10 ⟨0x00#8, 19#16, 60001#16, 0x8000#16, 0x7FFF#16, 20001#16⟩) [] ∧
  decode .program [0xFF#8, 0xFF#8, 0xFF#8, 0xFF#8, 0xFF#8, 0xFF#8, 0xFF#8, 0xFF#8, 0xFF#8, 0xFF#8, 0xFF#8, 0xFF#8] =
    .ok (.silence 0xFF#8 ⟨0xFF#8, 0xFFFF#16, 0xFFFF#16, 0xFFFF#16, 0xFFFF#16, 0xFFFF#16⟩) [] ∧
  decode .command [0x01#8, 0x00#8, 0x00#8, 0x00#8] = .ok .play [] ∧
  decode .command [0x02#8, 0x00#8, 0x00#8, 0x00#8] = .ok .stop [] ∧
  decode .command [0x03#8, 0x00#8, 0x00#8, 0x00#8] = .ok .render [] ∧
  decode .command [0x01#8, 0x00#8, 0x00#8, 0x80#8] = .ok (.cmdReserved 0x80000001#32) []

/-- Twelve bytes, whatever they are, are one sound instruction and no more bytes belong to it; fewer are none (R97). -/
def Obligations.EveryTwelveBytesAreOneInstruction : Prop :=
  ∀ bs : List Byte,
    (12 ≤ bs.length → ∃ i, decode .program bs = .ok i (bs.drop 12) ∧ i.space = .program) ∧
    (bs.length < 12 → decode .program bs = .reject .shortInstruction)

/-- Two sound instructions that differ only in byte 1 do the same (R94). -/
def Obligations.ReservedByteIsIgnored : Prop :=
  ∀ (code fl : Byte) (op : SoundOps) (s : State),
    exec (soundInstr code { op with flags := fl }) s = exec (soundInstr code op) s

/-! ## Fetch and step -/

/-- Where the bytes at the served voice's cursor decode to an instruction, fetching and running is `exec` of it
(R63). -/
def Obligations.FetchRunsTheDecodedInstruction : Prop :=
  ∀ (s : State) (name : Nat) (e : Entry) (i : Instr) (rest : List Byte),
    (getVoice s s.srvVoice).req = some name → findEntry s.queue name = some e →
    e.base + 12 * (getVoice s s.srvVoice).cur + 12 ≤ s.cfg.memSize →
    decode .program (memReadBytes s.mem (e.base + 12 * (getVoice s s.srvVoice).cur) 12) = .ok i rest →
    fetchAndRun s = exec i s

/-- Where the next host move writes a word to CMD, the step is `exec` of the instruction the word decodes to, at the
state without that move (R47; that the host's moves stand in a list is log 6). -/
def Obligations.StepRunsTheDecodedCommand : Prop :=
  ∀ (s : State) (w : Word) (rest : List HostAction), s.cfg.Legal → s.cfg.addrBits = 32 →
    s.pending = .busWrite s.cfg.regBase (bytesOfWord w) :: rest →
    ∃ i, decode .command (bytesOfWord w) = .ok i [] ∧ step s = exec i { s with pending := rest }

/-- Where the next host move is a RENDER and Q holds one due request of one instruction, every voice free, the step is
`exec` of that instruction on the voice it is promoted to, inside the leaf window opened before it and closed after it
(R154, R170, R185; that a command is one step is log 7, that moves stand in a list log 6). -/
def Obligations.StepRunsAOneInstructionProgram : Prop :=
  ∀ (s : State) (e : Entry) (i : Instr) (rest : List HostAction), s.cfg.Legal → s.cfg.addrBits = 32 →
    s.voices.length = s.cfg.maxVoices → (∀ v ∈ s.voices, v.req = none) → s.fault = false →
    s.pending = .busWrite s.cfg.regBase (bytesOfWord 3#32) :: rest →
    1 ≤ s.arg0.toNat → renderRefusal s.arg1.toNat s.arg0.toNat s = none →
    s.queue = [e] → e.state = .waiting → e.start.toNat ≤ s.curr.toNat → e.len = 12 →
    e.base + 12 ≤ s.cfg.memSize → decode .program (memReadBytes s.mem e.base 12) = .ok i [] →
    ∃ t, exec i (openWindow s.arg0.toNat (promote e { s with pending := rest })) = .next t ∧
      step s = .next { closeWindow s.arg1.toNat t with active := true }

/-! ## The ten sound instructions -/

/-- TRIANGLE's first sample: the piecewise-linear ramp at the voice's phase position, scaled by the clamped start
volume, is added to ACC (R122; the scaling is R147's). -/
def Obligations.TriangleAddsItsFirstSample : Prop :=
  ∀ (s : State) (op : SoundOps) (x : Int), s.cfg.Legal → s.srvVoice < s.voices.length →
    s.acc[s.srvPos]? = some x →
    let idx : Nat := (getVoice s s.srvVoice).phase.toNat / 2 ^ 16 % 1024
    let amp : Int := if idx < 512 then 128 * (idx : Int) - 32767 else 128 * (1023 - (idx : Int)) - 32767
    ∃ t, exec (.triangle op) s = .next t ∧
      t.acc[s.srvPos]? =
        some (x + amp * (min op.startVolume.toInt.toNat 1023 : Nat) / 2 ^ (26 - s.cfg.outputBits))

/-- SAWTOOTH's first sample: the linear ramp over the whole cycle, scaled by the clamped start volume, is added to ACC
(R123; the scaling is R147's). -/
def Obligations.SawtoothAddsItsFirstSample : Prop :=
  ∀ (s : State) (op : SoundOps) (x : Int), s.cfg.Legal → s.srvVoice < s.voices.length →
    s.acc[s.srvPos]? = some x →
    let idx : Nat := (getVoice s s.srvVoice).phase.toNat / 2 ^ 16 % 1024
    ∃ t, exec (.sawtooth op) s = .next t ∧
      t.acc[s.srvPos]? =
        some (x + (64 * (idx : Int) - 32767) * (min op.startVolume.toInt.toNat 1023 : Nat) /
          2 ^ (26 - s.cfg.outputBits))

/-- SINE's first sample: the quarter-wave table read up, down, and both negated, over the four quarters of the cycle
(R121, R134, R147). -/
def Obligations.SineAddsItsFirstSample : Prop :=
  ∀ (s : State) (op : SoundOps) (x : Int), s.cfg.Legal → s.srvVoice < s.voices.length →
    s.acc[s.srvPos]? = some x →
    let idx : Nat := (getVoice s s.srvVoice).phase.toNat / 2 ^ 16 % 1024
    let rom : Nat → Int := fun q => ((s.cfg.sineRom.toList.getD q 0#15).toNat : Int)
    let amp : Int :=
      if idx ≤ 256 then rom idx else if idx < 512 then rom (512 - idx)
      else if idx ≤ 768 then -rom (idx - 512) else -rom (1024 - idx)
    ∃ t, exec (.sine op) s = .next t ∧
      t.acc[s.srvPos]? =
        some (x + amp * (min op.startVolume.toInt.toNat 1023 : Nat) / 2 ^ (26 - s.cfg.outputBits))

/-- SQUARE10 to SQUARE50's first sample: high for the first 102 k positions of the cycle, low after them, scaled by the
clamped start volume (R124 to R128; the scaling is R147's). -/
def Obligations.SquaresAddTheirFirstSample : Prop :=
  ∀ (s : State) (op : SoundOps) (x : Int) (i : Instr) (k : Nat), s.cfg.Legal → s.srvVoice < s.voices.length →
    s.acc[s.srvPos]? = some x →
    (i, k) ∈ [(Instr.square10 op, 1), (.square20 op, 2), (.square30 op, 3), (.square40 op, 4), (.square50 op, 5)] →
    let idx : Nat := (getVoice s s.srvVoice).phase.toNat / 2 ^ 16 % 1024
    let amp : Int := if idx < 102 * k then 32767 else -32767
    ∃ t, exec i s = .next t ∧
      t.acc[s.srvPos]? =
        some (x + amp * (min op.startVolume.toInt.toNat 1023 : Nat) / 2 ^ (26 - s.cfg.outputBits))

/-- NOISE draws one value of the engine's one stream for each sample it makes, in order, and adds each, scaled by the
volume of its sample (R22, R129, R146). -/
def Obligations.NoiseDrawsOneValuePerSample : Prop :=
  ∀ (s : State) (op : SoundOps), s.cfg.Legal → s.srvVoice < s.voices.length →
    ∃ t, exec (.noise op) s = .next t ∧ t.noise = noiseAfter (samplesMade s op) s.noise ∧
      ∀ (j : Nat) (x : Int), j < samplesMade s op → s.acc[s.srvPos + j]? = some x →
        t.acc[s.srvPos + j]? =
          some (x + contributionAt s.cfg (clampOps op) (noiseAmp (noiseAfter (j + 1) s.noise)) j)

/-- SILENCE, under each of its codes, adds nothing and draws nothing, and still advances PHASE (R93, R130). -/
def Obligations.SilenceAddsNothing : Prop :=
  ∀ (s : State) (code : Byte) (op : SoundOps), s.cfg.Legal → s.srvVoice < s.voices.length →
    WellFormed (.silence code op) = true →
    ∃ t, exec (.silence code op) s = .next t ∧ t.acc = s.acc ∧ t.noise = s.noise ∧
      (getVoice t s.srvVoice).phase =
        phaseAfter s.cfg (clampOps op) (getVoice s s.srvVoice).phase (samplesMade s op)

/-- The voice's registers after any of the ten sound instructions, in closed form: as many samples are made as the
instruction has and the window holds, the ramps have advanced by that many steps, and the cursor moves, and the request
retires, exactly when all were made (R134, R140 to R145, R148 to R153). -/
def Obligations.SoundInstructionRegisters : Prop :=
  ∀ (s : State) (i : Instr) (code : Byte) (op : SoundOps), i.sound = some (code, op) → s.cfg.Legal →
    s.srvVoice < s.voices.length →
    let o := clampOps op
    let n := sampleCount s.cfg o.d
    let m := samplesMade s op
    let v := getVoice s s.srvVoice
    ∃ t, exec i s = .next t ∧ t.srvVoice = s.srvVoice ∧ t.srvPos = s.srvPos + m ∧
      let w := getVoice t s.srvVoice
      w.cv = true ∧ w.wave = code ∧ w.sleft.toNat = n - m ∧
      w.vol.toInt = (o.sv : Int) * 2 ^ 16 + (m : Int) * volumeStep s.cfg o ∧
      w.vstep.toInt = volumeStep s.cfg o ∧
      w.tstep = BitVec.ofInt 32 ((tonestep s.cfg o.f : Int) + (m : Int) * toneDelta s.cfg o) ∧
      w.tdelta.toInt = toneDelta s.cfg o ∧
      w.phase = phaseAfter s.cfg o v.phase m ∧
      w.cur = (if m = n then v.cur + 1 else v.cur) ∧
      w.req = (if m = n ∧ v.endIdx ≤ v.cur + 1 then none else v.req) ∧
      w.endIdx = v.endIdx ∧ w.start = v.start

/-- What any of the nine sound instructions other than NOISE adds to every sample of the window: its generator at the
phase of that sample times the volume of that sample, and nothing outside the samples it makes (R120, R134, R146,
R147). -/
def Obligations.SoundInstructionContributions : Prop :=
  ∀ (s : State) (i : Instr) (code : Byte) (op : SoundOps), i.sound = some (code, op) → code ≠ 5#8 →
    s.cfg.Legal → s.srvVoice < s.voices.length →
    let o := clampOps op
    let p := (getVoice s s.srvVoice).phase
    ∃ t, exec i s = .next t ∧ t.noise = s.noise ∧ t.acc.length = s.acc.length ∧
      ∀ (j : Nat) (x : Int), s.acc[j]? = some x →
        t.acc[j]? = some
          (if s.srvPos ≤ j ∧ j < s.srvPos + samplesMade s op then
            x + contributionAt s.cfg o
              (waveGen s.cfg code (phaseIdx (phaseAfter s.cfg o p (j - s.srvPos))) s.noise).1 (j - s.srvPos)
          else x)

/-- What the ten sound instructions leave alone: every other voice, the clock, the flags, the argument registers, the
pin port, all of memory and the configuration; in Q only the STATE of the request that retires changes; ACC changes only
at the samples made; G.NOISE changes only under NOISE (R134, R210). -/
def Obligations.SoundInstructionFrame : Prop :=
  ∀ (s : State) (i : Instr) (code : Byte) (op : SoundOps), i.sound = some (code, op) → s.cfg.Legal →
    s.srvVoice < s.voices.length →
    let m := samplesMade s op
    let v := getVoice s s.srvVoice
    ∃ t, exec i s = .next t ∧
      t.cfg = s.cfg ∧ t.curr = s.curr ∧ t.fault = s.fault ∧ t.active = s.active ∧ t.arg0 = s.arg0 ∧
      t.arg1 = s.arg1 ∧ t.arg2 = s.arg2 ∧ t.pins = s.pins ∧ (∀ a, memRead t.mem a = memRead s.mem a) ∧
      t.nextName = s.nextName ∧ t.pending = s.pending ∧ t.busOut = s.busOut ∧
      t.voices.length = s.voices.length ∧ (∀ k, k ≠ s.srvVoice → getVoice t k = getVoice s k) ∧
      t.queue = s.queue.map (fun e =>
        if m = sampleCount s.cfg (clampOps op).d ∧ v.endIdx ≤ v.cur + 1 ∧ v.req = some e.name then
          { e with state := .done } else e) ∧
      (∀ j, j < s.srvPos ∨ s.srvPos + m ≤ j → t.acc[j]? = s.acc[j]?) ∧
      (code ≠ 5#8 → t.noise = s.noise)

/-! ## The datapath and the generators -/

/-- The xorshift step in arithmetic on numbers, that it is one-to-one and fixes 0 (so a non-zero state never reaches
0), and the first three values from the default seed (R22, R129). -/
def Obligations.NoiseStepIsXorshiftAndOneToOne : Prop :=
  (∀ x : Word,
    let a := x.toNat ^^^ (x.toNat * 2 ^ 13 % 2 ^ 32)
    let b := a ^^^ (a / 2 ^ 17)
    (noiseStep x).toNat = b ^^^ (b * 2 ^ 5 % 2 ^ 32)) ∧
  Function.Injective noiseStep ∧ noiseStep 0#32 = 0#32 ∧
  noiseStep 0x0F01BA80#32 = 0x326573A8#32 ∧ noiseStep 0x326573A8#32 = 0x1E1789A0#32 ∧
  noiseStep 0x1E1789A0#32 = 0x0B5C3811#32

/-- Every generator stays in -32767..32768 at every position, 32768 under NOISE only, and every generator but NOISE
leaves G.NOISE alone (R120). -/
def Obligations.GeneratorsStayInRange : Prop :=
  ∀ (c : Config) (code : Byte) (idx : Nat) (noise : Word), idx < 1024 →
    -32767 ≤ (waveGen c code idx noise).1 ∧ (waveGen c code idx noise).1 ≤ 32768 ∧
    (code ≠ 5#8 → (waveGen c code idx noise).1 ≤ 32767 ∧ (waveGen c code idx noise).2 = noise)

/-- A voice's contribution fits OUTPUT_BITS bits of two's complement, at every amplitude a generator gives (R147). -/
def Obligations.ContributionFitsTheOutputDepth : Prop :=
  ∀ (c : Config) (amp : Int) (vol : Word), c.Legal → -32767 ≤ amp → amp ≤ 32768 →
    0 ≤ vol.toInt → vol.toInt ≤ 1023 * 2 ^ 16 →
    -(2 ^ (c.outputBits - 1)) ≤ contribution c amp vol ∧ contribution c amp vol ≤ 2 ^ (c.outputBits - 1) - 1

/-- Neither ramp of an instruction ever passes its end value, at any sample (R143, R145, R149, R157). -/
def Obligations.RampsNeverPassTheirEnd : Prop :=
  ∀ (c : Config) (op : SoundOps) (j : Nat), c.Legal → j ≤ sampleCount c (clampOps op).d →
    let o := clampOps op
    min ((o.sv : Int) * 2 ^ 16) ((o.ev : Int) * 2 ^ 16) ≤ (o.sv : Int) * 2 ^ 16 + (j : Int) * volumeStep c o ∧
    (o.sv : Int) * 2 ^ 16 + (j : Int) * volumeStep c o ≤ max ((o.sv : Int) * 2 ^ 16) ((o.ev : Int) * 2 ^ 16) ∧
    min (tonestep c o.f : Int) (tonestep c o.ef) ≤ (tonestep c o.f : Int) + (j : Int) * toneDelta c o ∧
    (tonestep c o.f : Int) + (j : Int) * toneDelta c o ≤ max (tonestep c o.f : Int) (tonestep c o.ef)

/-- A bound voice in an invariant state is within the bounds of R157: if it runs, the numeric bounds of SLEFT, VOL, TSTEP,
VSTEP and TDELTA and CUR below END, and, where its registers are true to its instruction (`Carried`), VOL between the
instruction's start and end volumes and TSTEP between its start and end tone steps; if it is fresh, CUR is 0. -/
def Obligations.RunningVoiceIsWithinItsBounds : Prop :=
  ∀ (s : State) (v : Voice), Inv s → v ∈ s.voices → v.req ≠ none →
    (v.cv = true →
      1 ≤ v.sleft.toNat ∧ v.sleft.toNat ≤ 60000000 ∧ 0 ≤ v.vol.toInt ∧ v.vol.toInt ≤ 67043328 ∧
      1342 ≤ v.tstep.toNat ∧ v.tstep.toNat ≤ 2097152000 ∧ v.cur < v.endIdx ∧
      |v.vstep.toInt| ≤ 67043328 ∧ |v.tdelta.toInt| ≤ 2095054848) ∧
    (v.cv = false → v.cur = 0) ∧
    ∀ e ∈ s.queue, Carried s → v.req = some e.name → v.cv = true →
      let o := clampOps (opsAt s.mem (e.base + 12 * v.cur))
      min ((o.sv : Int) * 2 ^ 16) ((o.ev : Int) * 2 ^ 16) ≤ v.vol.toInt ∧
      v.vol.toInt ≤ max ((o.sv : Int) * 2 ^ 16) ((o.ev : Int) * 2 ^ 16) ∧
      min (tonestep s.cfg o.f) (tonestep s.cfg o.ef) ≤ v.tstep.toNat ∧
      v.tstep.toNat ≤ max (tonestep s.cfg o.f) (tonestep s.cfg o.ef)

/-- A fresh voice bound to an empty request retires at its turn: it is unbound, its entry is Done, and it adds no
sample, makes no draw and stores nothing (R158). -/
def Obligations.EmptyRequestRetiresSilently : Prop :=
  ∀ (s : State) (k name : Nat), k < s.voices.length → (getVoice s k).req = some name → (getVoice s k).cv = false →
    (getVoice s k).cur = 0 → (getVoice s k).endIdx = 0 →
    ∃ t, runVoice k s = .next t ∧ getVoice t k = { getVoice s k with req := none } ∧
      t.queue = s.queue.map (fun e => if e.name = name then { e with state := .done } else e) ∧
      t.acc = s.acc ∧ t.noise = s.noise ∧ t.mem = s.mem

/-- A voice's run over a leaf window, instruction by instruction, is the sample-by-sample procedure of R159 (that the
model runs whole instructions is log 7). -/
def Obligations.VoiceRunIsSampleBySample : Prop :=
  ∀ (s : State) (k : Nat), s.cfg.Legal → isBound (getVoice s k) = true → 1 ≤ s.acc.length →
    runVoice k s = runVoiceBySamples s.acc.length { s with srvVoice := k, srvPos := 0 }

/-- Mixing is plain addition: what a voice adds to ACC, and everything else it does, does not depend on what ACC held
(R172, R173). -/
def Obligations.MixingIsPlainAddition : Prop :=
  ∀ (s t : State) (k : Nat) (b : List Int), runVoice k { s with acc := List.replicate b.length 0 } = .next t →
    t.acc.length = b.length ∧
    runVoice k { s with acc := b } = .next { t with acc := List.zipWith (· + ·) b t.acc }

/-! ## The scheduler -/

/-- Where the scan from the head first meets a due Waiting entry, scheduling promotes that entry and starts over; where
nothing is due it changes nothing. So after it no Waiting entry is due, and timeLeft is the smallest wait among the
Waiting entries, or none when there is none (R185 to R188). -/
def Obligations.SchedulingPromotesEverythingDue : Prop :=
  ∀ s : State,
    (∀ (q1 q2 : List Entry) (e : Entry), s.queue = q1 ++ e :: q2 →
      (∀ d ∈ q1, d.state = .waiting → s.curr.toNat < d.start.toNat) →
      e.state = .waiting → e.start.toNat ≤ s.curr.toNat → schedule s = schedule (promote e s)) ∧
    ((∀ e ∈ s.queue, e.state = .waiting → s.curr.toNat < e.start.toNat) → (schedule s).1 = s) ∧
    let r := schedule s
    (∀ e ∈ r.1.queue, e.state = .waiting → s.curr.toNat < e.start.toNat) ∧
    (r.2 = none ↔ ∀ e ∈ r.1.queue, e.state ≠ .waiting) ∧
    (∀ t, r.2 = some t →
      0 < t ∧ (∀ e ∈ r.1.queue, e.state = .waiting → t ≤ e.start.toNat - s.curr.toNat) ∧
      ∃ e ∈ r.1.queue, e.state = .waiting ∧ t = e.start.toNat - s.curr.toNat)

/-- Scheduling twice at one clock value is scheduling once (R216). -/
def Obligations.SchedulingIsIdempotent : Prop :=
  ∀ s : State, schedule (schedule s).1 = schedule s

/-- Promote binds the free voice of the lowest index, or, with none free, evicts the voice with the smallest START, the
lowest index among equals; the evicted request is Done, the promoted one Playing; the bound voice keeps PHASE and its
envelope registers; nothing else changes (R189 to R193). -/
def Obligations.PromotionBindsTheChosenVoice : Prop :=
  ∀ (s : State) (e : Entry), s.voices ≠ [] →
    ∃ (k : Nat) (v : Voice), s.voices[k]? = some v ∧
      ((v.req = none ∧ ∀ (j : Nat) (w : Voice), j < k → s.voices[j]? = some w → w.req ≠ none) ∨
        ((∀ w ∈ s.voices, w.req ≠ none) ∧ ∀ (j : Nat) (w : Voice), s.voices[j]? = some w →
          v.start.toNat ≤ w.start.toNat ∧ (j < k → v.start.toNat < w.start.toNat))) ∧
      promote e s = { s with
        voices := s.voices.set k
          { v with req := some e.name, start := s.curr, cur := 0, endIdx := e.len / 12, cv := false }
        queue := s.queue.map (fun d =>
          if d.name = e.name then { d with state := .playing }
          else if some d.name = v.req then { d with state := .done } else d) }

/-! ## PLAY -/

/-- An accepted PLAY puts a Waiting entry with the START of R212 at the head of Q, emits its PIN and the UNPINs of the
Done entries in list order, removes those, and changes nothing else (R211, R212, R213). -/
def Obligations.PlayQueuesTheRequest : Prop :=
  ∀ s : State,
    let base := s.arg1.toNat
    let len := s.arg2.toNat
    let start := s.curr.toNat + (max s.arg0.toInt 0).toNat * s.cfg.sampleRate / 1000
    s.fault = false → len % 12 = 0 → base < s.cfg.memSize → len < s.cfg.memSize → base + len ≤ s.cfg.memSize →
    overlapsDevice s.cfg base len = false → start < 2 ^ 64 →
    (∀ cap, s.cfg.queueCap = some cap → s.queue.countP (fun e => e.state ≠ .done) < cap) →
    exec .play s = .next { s with
      queue := ⟨s.nextName, base, len, .waiting, BitVec.ofNat 64 start⟩ :: s.queue.filter (fun e => e.state ≠ .done)
      pins := s.pins ++ .pin base len ::
        (s.queue.filter (fun e => e.state = .done)).map (fun e => PinEvent.unpin e.base e.len)
      nextName := s.nextName + 1 }

/-- A PLAY that is not refused and whose LEN is not a multiple of 12 sets G.FAULT and does nothing else (R240, R242). -/
def Obligations.PlayOfMisalignedLengthIsFatal : Prop :=
  ∀ s : State,
    let base := s.arg1.toNat
    let len := s.arg2.toNat
    s.fault = false → len % 12 ≠ 0 → base < s.cfg.memSize → len < s.cfg.memSize → base + len ≤ s.cfg.memSize →
    overlapsDevice s.cfg base len = false →
    s.curr.toNat + (max s.arg0.toInt 0).toNat * s.cfg.sampleRate / 1000 < 2 ^ 64 →
    (∀ cap, s.cfg.queueCap = some cap → s.queue.countP (fun e => e.state ≠ .done) < cap) →
    exec .play s = .next { s with fault := true }

/-- A PLAY is refused whose buffer leaves the address space or touches the register block, whose START would pass
2^64 - 1, or that finds a bounded queue full, whatever its LEN (R69, R211, R247, R251). -/
def Obligations.PlayIsRefusedOutOfRange : Prop :=
  ∀ s : State, s.fault = false →
    (s.cfg.memSize < s.arg1.toNat + s.arg2.toNat ∨
      (∃ a, s.arg1.toNat ≤ a ∧ a < s.arg1.toNat + s.arg2.toNat ∧ s.cfg.regBase ≤ a ∧ a < s.cfg.regBase + 36) ∨
      2 ^ 64 ≤ s.curr.toNat + (max s.arg0.toInt 0).toNat * s.cfg.sampleRate / 1000 ∨
      (∃ cap, s.cfg.queueCap = some cap ∧ cap ≤ s.queue.countP (fun e => e.state ≠ .done))) →
    ∃ r, exec .play s = .refused r

/-! ## STOP -/

/-- STOP unpins every entry in list order, empties Q and unbinds every voice; no other register of a voice, not the
clock, not G.NOISE, not G.ACTIVE, not memory changes (R214). -/
def Obligations.StopClearsTheQueueAndTheBindings : Prop :=
  ∀ s : State, s.fault = false →
    ∃ t, exec .stop s = .next t ∧ t.queue = [] ∧
      t.pins = s.pins ++ s.queue.map (fun e => PinEvent.unpin e.base e.len) ∧
      t.voices.length = s.voices.length ∧
      (∀ k, getVoice t k = { getVoice s k with req := none }) ∧
      t.curr = s.curr ∧ t.noise = s.noise ∧ t.active = s.active ∧ t.fault = s.fault ∧ t.mem = s.mem ∧
      t.arg0 = s.arg0 ∧ t.arg1 = s.arg1 ∧ t.arg2 = s.arg2 ∧ t.cfg = s.cfg ∧ t.nextName = s.nextName ∧
      t.pending = s.pending ∧ t.busOut = s.busOut ∧ t.acc = s.acc ∧ t.srvVoice = s.srvVoice ∧ t.srvPos = s.srvPos

/-- A RENDER right after STOP stores zeros only and reports inactive (R171, R214, R217). -/
def Obligations.RenderAfterStopIsSilent : Prop :=
  ∀ (s t : State) (dst n : Nat), s.cfg.Legal → Memory.wf s.mem → s.fault = false → stopCommand s = .next t →
    dst < s.cfg.memSize → dst + 2 * n ≤ s.cfg.memSize → overlapsDevice s.cfg dst (2 * n) = false →
    s.curr.toNat + n < 2 ^ 64 →
    ∃ u, renderCommand dst n t = .next u ∧ u.active = false ∧ u.curr.toNat = s.curr.toNat + n ∧
      (∀ j, j < n → sampleAt u.mem (dst + 2 * j) = 0) ∧
      ∀ a, a < dst ∨ dst + 2 * n ≤ a → memRead u.mem a = memRead s.mem a

/-! ## RENDER -/

/-- A RENDER that is not refused completes: the clock advances by n, exactly the bytes of its window may change, no event
is emitted, no entry's identity changes, and everything outside the engine's playing state is as before (R65, R177,
R215, R241). -/
def Obligations.RenderCompletes : Prop :=
  ∀ s : State,
    let dst := s.arg1.toNat
    let n := s.arg0.toNat
    Inv s → s.fault = false → dst + 2 * n ≤ s.cfg.memSize → dst < s.cfg.memSize →
    overlapsDevice s.cfg dst (2 * n) = false →
    (∀ e ∈ s.queue, ∀ a, e.base ≤ a → a < e.base + e.len → a < dst ∨ dst + 2 * n ≤ a) →
    s.curr.toNat + n < 2 ^ 64 →
    ∃ t, exec .render s = .next t ∧ t.curr.toNat = s.curr.toNat + n ∧ t.fault = false ∧
      (∀ a, a < dst ∨ dst + 2 * n ≤ a → memRead t.mem a = memRead s.mem a) ∧
      t.queue.map Entry.request = s.queue.map Entry.request ∧ t.pins = s.pins ∧
      t.voices.length = s.voices.length ∧ t.cfg = s.cfg ∧ t.arg0 = s.arg0 ∧ t.arg1 = s.arg1 ∧ t.arg2 = s.arg2 ∧
      t.nextName = s.nextName ∧ t.pending = s.pending ∧ t.busOut = s.busOut

/-- What RENDER stores. A leaf window stores at DST + 2 j the sum, over all bound voices run in ascending order of their
index, of what each adds to sample j, saturated once to ±MAXVAL, stores nothing else, and leaves the voices, Q and
G.NOISE as those runs leave them. A RENDER that no promotion splits is one leaf window on the scheduled state (split
ones are `RenderIsALoop`'s sequences of them). Every sample any RENDER stores is within ±MAXVAL (R65, R171 to R175). -/
def Obligations.RenderedSamplesAreSaturated : Prop :=
  (∀ (s u : State) (dst n : Nat) (runs : List (List Int)), s.cfg.Legal → Memory.wf s.mem → 1 ≤ n →
    soloRuns n (List.range s.cfg.maxVoices) s = .next (runs, u) →
    ∃ t, leafWindow dst n s = .next (t, activeNow s) ∧
      (∀ j, j < n → sampleAt t.mem (dst + 2 * j) = saturatedSum s.cfg runs j) ∧
      (∀ a, a < dst ∨ dst + 2 * n ≤ a → memRead t.mem a = memRead s.mem a) ∧
      t.voices = u.voices ∧ t.queue = u.queue ∧ t.noise = u.noise ∧ t.curr = s.curr + BitVec.ofNat 64 n) ∧
  (∀ s : State, Inv s → s.fault = false → 1 ≤ s.arg0.toNat →
    renderRefusal s.arg1.toNat s.arg0.toNat s = none →
    (∀ t, (schedule s).2 = some t → s.arg0.toNat ≤ t) →
    (∃ runs u, soloRuns s.arg0.toNat (List.range s.cfg.maxVoices) (schedule s).1 = .next (runs, u)) ∧
    ∃ t b, leafWindow s.arg1.toNat s.arg0.toNat (schedule s).1 = .next (t, b) ∧
      exec .render s = .next { t with active := b }) ∧
  ∀ (s t : State) (dst n j : Nat), s.cfg.Legal → Memory.wf s.mem → s.fault = false →
    renderCommand dst n s = .next t → j < n →
    -((2 ^ (s.cfg.outputBits - 1) - 1 : Nat) : Int) ≤ sampleAt t.mem (dst + 2 * j) ∧
    sampleAt t.mem (dst + 2 * j) ≤ (2 ^ (s.cfg.outputBits - 1) - 1 : Nat)

/-- RENDER with n = 0 only reports: ACTIVE becomes whether an entry waits or a voice is bound; nothing is promoted,
stored or advanced (R215, R217). -/
def Obligations.RenderOfNothingOnlyReports : Prop :=
  ∀ s : State, s.fault = false → s.arg0 = 0#32 → s.arg1.toNat < s.cfg.memSize →
    ∃ b : Bool, exec .render s = .next { s with active := b } ∧
      (b = true ↔ (∃ e ∈ s.queue, e.state = .waiting) ∨ ∃ v ∈ s.voices, v.req ≠ none)

/-- From an invariant state, a RENDER's result is the activity of the state it starts from, whatever n and however it
splits (R217, R218). -/
def Obligations.RenderReportsActivityAtItsStart : Prop :=
  ∀ s t : State, Inv s → s.fault = false → exec .render s = .next t →
    (t.active = true ↔ (∃ e ∈ s.queue, e.state = .waiting) ∨ ∃ v ∈ s.voices, v.req ≠ none)

/-- A RENDER is refused whose window leaves the address space, touches the register block or a pinned byte, or would take
the clock past 2^64 - 1 (R69, R251). -/
def Obligations.RenderIsRefusedOutOfRange : Prop :=
  ∀ s : State, s.fault = false →
    (s.cfg.memSize < s.arg1.toNat + 2 * s.arg0.toNat ∨
      (∃ a, s.arg1.toNat ≤ a ∧ a < s.arg1.toNat + 2 * s.arg0.toNat ∧
        ((s.cfg.regBase ≤ a ∧ a < s.cfg.regBase + 36) ∨ ∃ e ∈ s.queue, e.base ≤ a ∧ a < e.base + e.len)) ∨
      2 ^ 64 ≤ s.curr.toNat + s.arg0.toNat) →
    ∃ r, exec .render s = .refused r

/-- The result of a split window is the OR of the results of its parts (R218). That the first part's result is 1, and so
the whole's, is R218's own inference, "its result is 1, so every RENDER that splits returns 1", which the spec marks as
derived from R216 and R217. -/
def Obligations.SplitResultIsTheOrAndIsOne : Prop :=
  ∀ (s u : State) (fuel dst n t : Nat) (b : Bool), (schedule s).2 = some t → t < n →
    render1 (fuel + 1) dst n s = .next (u, b) → n ≤ fuel + 1 →
    ∃ (s1 : State) (b1 b2 : Bool), b1 = true ∧ b = true ∧ render1 fuel dst t (schedule s).1 = .next (s1, b1) ∧
      render1 fuel (dst + 2 * t) (n - t) s1 = .next (u, b2) ∧ b = (b1 || b2)

/-- The recursion of Render1 is the loop R219 gives: schedule, render min(t, remaining) samples, repeat. -/
def Obligations.RenderIsALoop : Prop :=
  ∀ (s : State) (dst n : Nat), 1 ≤ n → render1 n dst n s = renderLoop n dst n s

/-- From an invariant state, rendering n samples in one RENDER or in two, however many voices are bound and whatever is
promoted inside the window, leaves the same memory and the same engine state, and the result of the one is the OR of the
results of the two (R216). The proviso "at most one voice is playing a NOISE instruction" is taken for each leaf window
of the one RENDER: a voice that hands NOISE over to another at a later sample of one leaf window already draws in another
order when cut between them (R172, R178). -/
def Obligations.RenderSplitsWithoutTrace : Prop :=
  ∀ (s : State) (dst k n : Nat), Inv s → s.fault = false → 0 < k → k < n → renderRefusal dst n s = none →
    oneNoiseVoice n dst n s = true →
    ∃ t1 t2 t, renderCommand dst k s = .next t1 ∧ renderCommand (dst + 2 * k) (n - k) t1 = .next t2 ∧
      renderCommand dst n s = .next t ∧ t2 = { t with active := t2.active } ∧ t.active = (t1.active || t2.active)

/-! ## The dead engine, the reserved commands, the register block -/

/-- While G.FAULT is 1 every command, as a word or on abstract operands, has no effect at all (R220). -/
def Obligations.DeadEngineIgnoresEveryCommand : Prop :=
  ∀ s : State, s.fault = true →
    exec .play s = .next s ∧ exec .stop s = .next s ∧ exec .render s = .next s ∧
    (∀ w, exec (.cmdReserved w) s = .next s) ∧ ∀ c, runCommand c s = .next s

/-- A CMD value of 0, or with any of bits 31:2 set, is reserved: it does nothing and does not fault (R99). -/
def Obligations.ReservedCommandsDoNothing : Prop :=
  ∀ (s : State) (w : Word), w = 0#32 ∨ 4 ≤ w.toNat →
    decode .command (bytesOfWord w) = .ok (.cmdReserved w) [] ∧ exec (.cmdReserved w) s = .next s

/-- A write of CMD executes the command of its value on the argument registers, reserved values change nothing, and
while G.FAULT is 1 no value does; RENDER's result is then in STATUS bit 0 (R47). -/
def Obligations.CmdWriteExecutesTheCommand : Prop :=
  ∀ s : State,
    writeReg .cmd 1#32 s = playCommand s.arg0.toInt s.arg1.toNat s.arg2.toNat s ∧
    writeReg .cmd 2#32 s = stopCommand s ∧
    writeReg .cmd 3#32 s = renderCommand s.arg1.toNat s.arg0.toNat s ∧
    (∀ t, writeReg .cmd 3#32 s = .next t → (readReg t .status).getLsbD 0 = t.active) ∧
    (∀ w : Word, w.extractLsb' 0 2 = 0#2 ∨ w.extractLsb' 2 30 ≠ 0#30 → writeReg .cmd w s = .next s) ∧
    (s.fault = true → ∀ w, writeReg .cmd w s = .next s)

/-- STATUS reads G.ACTIVE in bit 0, which after a RENDER is its result, G.FAULT in bit 1 and 0 in bits 31:2, and a write
of it changes nothing (R46). -/
def Obligations.StatusReadsActiveAndFault : Prop :=
  ∀ (s : State) (w : Word),
    (readReg s .status).getLsbD 0 = s.active ∧ (readReg s .status).getLsbD 1 = s.fault ∧
    (∀ k, 2 ≤ k → (readReg s .status).getLsbD k = false) ∧ writeReg .status w s = .next s ∧
    ∀ (dst n : Nat) (t : State) (b : Bool), s.fault = false → renderRefusal dst n s = none → 1 ≤ n →
      render1 n dst n s = .next (t, b) →
      ∃ u, renderCommand dst n s = .next u ∧ (readReg u .status).getLsbD 0 = b

/-- What a bus read of each register of the block returns, with no side effect but on the model's own `busOut`, the
bytes returned (R44, R45, R48; log 12; that it does so on the dead engine too is log 20). A register that would lie past
the last address faults (log 24). -/
def Obligations.RegisterBlockReads : Prop :=
  ∀ (s : State) (off : Nat) (v : Word), s.cfg.Legal → s.cfg.addrBits = 32 →
    (off, v) ∈ [(0x00, 0#32), (0x04, s.arg0), (0x08, s.arg1), (0x0C, s.arg2), (0x10, statusWord s),
      (0x14, BitVec.ofNat 32 s.curr.toNat), (0x18, BitVec.ofNat 32 (s.curr.toNat / 2 ^ 32)),
      (0x1C, BitVec.ofNat 32 s.cfg.sampleRate),
      (0x20, BitVec.ofNat 32 (s.cfg.outputBits + 256 * s.cfg.maxVoices))] →
    perform (.busRead (s.cfg.regBase + off) 4) s =
      if s.cfg.regBase + off < 2 ^ 32 then .next { s with busOut := bytesOfWord v } else .fault .outsideMemory

/-- A bus write of an argument register sets it and changes nothing else; a write of a read-only register is ignored; a
command leaves the argument registers unchanged (R45; that the dead engine takes these writes is log 20). A register
that would lie past the last address faults (log 24). -/
def Obligations.ArgumentRegistersAreTheHosts : Prop :=
  (∀ (s : State) (w : Word) (off : Nat) (t : State), s.cfg.Legal → s.cfg.addrBits = 32 →
    (off, t) ∈ [(0x04, { s with arg0 := w }), (0x08, { s with arg1 := w }), (0x0C, { s with arg2 := w }),
      (0x10, s), (0x14, s), (0x18, s), (0x1C, s), (0x20, s)] →
    perform (.busWrite (s.cfg.regBase + off) (bytesOfWord w)) s =
      if s.cfg.regBase + off < 2 ^ 32 then .next t else .fault .outsideMemory) ∧
  ∀ (c : Command) (s t : State), runCommand c s = .next t → t.arg0 = s.arg0 ∧ t.arg1 = s.arg1 ∧ t.arg2 = s.arg2

/-- An access of the register block of another width or alignment is refused (R44); one that reaches past the last
address faults (R60; log 24). -/
def Obligations.OddRegisterAccessIsRefused : Prop :=
  ∀ (s : State) (addr : Nat) (bytes : List Byte),
    (∃ a, addr ≤ a ∧ a < addr + bytes.length ∧ s.cfg.regBase ≤ a ∧ a < s.cfg.regBase + 36) →
    s.cfg.addrBits = 32 → bytes.length ≠ 4 ∨ addr % 4 ≠ 0 →
    perform (.busWrite addr bytes) s =
      (if addr + bytes.length ≤ 2 ^ 32 then .refused .registerAccess else .fault .outsideMemory) ∧
    perform (.busRead addr bytes.length) s =
      if addr + bytes.length ≤ 2 ^ 32 then .refused .registerAccess else .fault .outsideMemory

/-! ## Host memory -/

/-- A host write of bytes, outside device space, any of which lies in the buffer of an entry of Q, is refused, whatever
the STATE of the entry (R67). -/
def Obligations.HostWriteToAPinnedByteIsRefused : Prop :=
  ∀ (s : State) (addr : Nat) (bytes : List Byte) (e : Entry) (a : Nat), e ∈ s.queue →
    e.base ≤ a → a < e.base + e.len → addr ≤ a → a < addr + bytes.length →
    addr + bytes.length ≤ s.cfg.memSize → overlapsDevice s.cfg addr bytes.length = false →
    perform (.busWrite addr bytes) s = .refused .pinnedWrite

/-- Bytes the host stores outside pinned buffers and device space are what is read there afterwards;
every other byte reads as before, and nothing but memory changes (R62, R71; that it does so
on the dead engine too is log 20). -/
def Obligations.HostStoreReadsBack : Prop :=
  ∀ (s : State) (addr : Nat) (bytes : List Byte), Memory.wf s.mem → addr + bytes.length ≤ s.cfg.memSize →
    overlapsDevice s.cfg addr bytes.length = false →
    (∀ e ∈ s.queue, ∀ a, e.base ≤ a → a < e.base + e.len → a < addr ∨ addr + bytes.length ≤ a) →
    ∃ m, perform (.busWrite addr bytes) s = .next { s with mem := m } ∧
      memReadBytes m addr bytes.length = bytes ∧
      ∀ a, a < addr ∨ addr + bytes.length ≤ a → memRead m a = memRead s.mem a

/-! ## Reset -/

/-- The state after reset, in every configuration (R50; the values of the model's own fields are logs 5, 6, 7, 9, 10 and
12). -/
def Obligations.ResetStateIsIdle : Prop :=
  ∀ c : Config,
    let s := State.resetWith c
    s.curr = 0#64 ∧ s.noise = c.noiseSeed ∧ s.fault = false ∧ s.active = false ∧ s.queue = [] ∧
    s.arg0 = 0#32 ∧ s.arg1 = 0#32 ∧ s.arg2 = 0#32 ∧ s.pins = [] ∧ s.voices.length = c.maxVoices ∧
    ∀ v ∈ s.voices, v.req = none ∧ v.start = 0#64 ∧ v.cur = 0 ∧ v.endIdx = 0 ∧ v.phase = 0#32 ∧ v.cv = false ∧
      v.vol = 0#32 ∧ v.tstep = 0#32 ∧ v.tdelta = 0#32 ∧ v.sleft = 0#32 ∧ v.vstep = 0#32 ∧ v.wave = 0#8

/-- The reset move puts every piece of engine state at its reset value in the same configuration, from any state, dead or
not, and leaves every byte of host memory (R270; that the pending moves stay and the pin trace starts anew is
log 17). -/
def Obligations.ResetMoveRestartsTheEngine : Prop :=
  ∀ s : State, ∃ t, perform .reset s = .next t ∧ t.mem = s.mem ∧ t.pending = s.pending ∧
    { t with mem := [], pending := [] } = State.resetWith s.cfg

/-! ## Rules of the whole machine -/

/-- G.FAULT is 0 at reset, becomes 1 only by a PLAY whose length is not a multiple of 12, and once 1 it stays, until
reset, with the clock, G.NOISE, G.ACTIVE, the voices, Q and the pin port frozen (R23). -/
def Obligations.FaultIsStickyUntilReset : Prop :=
  (∀ c, (State.resetWith c).fault = false) ∧
  ∀ (s t : State) (a : HostAction), perform a s = .next t →
    (s.fault = false → t.fault = true →
      ∃ d base len, len % 12 ≠ 0 ∧ playCommand d base len s = .next t ∧ t = { s with fault := true }) ∧
    (s.fault = true → a ≠ .reset →
      t.fault = true ∧ t.curr = s.curr ∧ t.noise = s.noise ∧ t.active = s.active ∧ t.voices = s.voices ∧
      t.queue = s.queue ∧ t.pins = s.pins) ∧
    (s.fault = true → ∀ c, runCommand c s = .next s) ∧
    (a = .reset → t.fault = false)

/-- The clock advances by exactly n in a RENDER of n samples, from any state, and in no other command or host move but
reset (R21, R177, R251). -/
def Obligations.ClockCountsRenderedSamples : Prop :=
  (∀ (s t : State) (dst n : Nat), s.fault = false → renderCommand dst n s = .next t →
    t.curr.toNat = s.curr.toNat + n) ∧
  (∀ (s t : State) (d : Int) (base len : Nat), playCommand d base len s = .next t → t.curr = s.curr) ∧
  (∀ s t : State, stopCommand s = .next t → t.curr = s.curr) ∧
  ∀ (s t : State) (a : HostAction), a ≠ .reset → perform a s = .next t →
    t.curr = s.curr ∨ ∃ dst n, renderCommand dst n s = .next t

/-- From any state, a step leaves the configuration as it was (R5) and keeps the host memory in canonical form (the
model's own form, log 5). -/
def Obligations.StepKeepsConfigurationAndMemoryForm : Prop :=
  ∀ s t : State, step s = .next t → t.cfg = s.cfg ∧ (Memory.wf s.mem → Memory.wf t.mem)

/-- The invariants hold after reset in every legal configuration, the default one among them (R36, R40, R50). -/
def Obligations.InvariantsHoldAtReset : Prop :=
  Config.default.Legal ∧
  ∀ c : Config, c.Legal →
    Inv (State.resetWith c) ∧ Carried (State.resetWith c) ∧ PinsBalanced (State.resetWith c)

/-- Every step keeps the invariant of R22, R36, R40, R157 and R197. -/
def Obligations.StepKeepsTheInvariant : Prop :=
  ∀ s t : State, Inv s → step s = .next t → Inv t

/-- Every step keeps each running voice's registers equal to what the instruction at its cursor gives them after the
samples made since its entry (R34, R35, R155, R156, R157). -/
def Obligations.StepKeepsVoicesTrueToTheirInstructions : Prop :=
  ∀ s t : State, Inv s → Carried s → step s = .next t → Carried t

/-- Every step keeps the pin port balanced: each entry of Q has one PIN and no UNPIN, each removed one has both (R68; that
`pins` keeps all events since reset is log 10). -/
def Obligations.StepKeepsPinsBalanced : Prop :=
  ∀ s t : State, PinsBalanced s → step s = .next t → PinsBalanced t

/-- In every step from an invariant state a request keeps its buffer, its start time and its name, moves only Waiting to
Playing to Done, and leaves Q only when Done or when Q is emptied whole (R38, R39, R195; the names are log 9). -/
def Obligations.RequestsMoveForwardOnly : Prop :=
  ∀ s t : State, Inv s → step s = .next t → ∀ e ∈ s.queue,
    t.queue = [] ∨ (e.state = .done ∧ ∀ d ∈ t.queue, d.name ≠ e.name) ∨
    ∃ d ∈ t.queue, d.request = e.request ∧ e.state.mayBecome d.state
end

