-- ==== Sys2Proof/Laws/State.lean ====
section
/-! SUPPORT. One lemma per field per named update of the state and of a voice, each true by rfl. -/

namespace Sys2Proof.Machine

/-! ## setVoice -/

@[simp] theorem setVoice_cfg (s : State) (k : Nat) (v : Voice) : (setVoice s k v).cfg = s.cfg := rfl
@[simp] theorem setVoice_curr (s : State) (k : Nat) (v : Voice) : (setVoice s k v).curr = s.curr := rfl
@[simp] theorem setVoice_noise (s : State) (k : Nat) (v : Voice) : (setVoice s k v).noise = s.noise := rfl
@[simp] theorem setVoice_fault (s : State) (k : Nat) (v : Voice) : (setVoice s k v).fault = s.fault := rfl
@[simp] theorem setVoice_active (s : State) (k : Nat) (v : Voice) : (setVoice s k v).active = s.active := rfl
@[simp] theorem setVoice_voices (s : State) (k : Nat) (v : Voice) : (setVoice s k v).voices = s.voices.set k v := rfl
@[simp] theorem setVoice_queue (s : State) (k : Nat) (v : Voice) : (setVoice s k v).queue = s.queue := rfl
@[simp] theorem setVoice_arg0 (s : State) (k : Nat) (v : Voice) : (setVoice s k v).arg0 = s.arg0 := rfl
@[simp] theorem setVoice_arg1 (s : State) (k : Nat) (v : Voice) : (setVoice s k v).arg1 = s.arg1 := rfl
@[simp] theorem setVoice_arg2 (s : State) (k : Nat) (v : Voice) : (setVoice s k v).arg2 = s.arg2 := rfl
@[simp] theorem setVoice_pins (s : State) (k : Nat) (v : Voice) : (setVoice s k v).pins = s.pins := rfl
@[simp] theorem setVoice_mem (s : State) (k : Nat) (v : Voice) : (setVoice s k v).mem = s.mem := rfl
@[simp] theorem setVoice_acc (s : State) (k : Nat) (v : Voice) : (setVoice s k v).acc = s.acc := rfl
@[simp] theorem setVoice_srvVoice (s : State) (k : Nat) (v : Voice) : (setVoice s k v).srvVoice = s.srvVoice := rfl
@[simp] theorem setVoice_srvPos (s : State) (k : Nat) (v : Voice) : (setVoice s k v).srvPos = s.srvPos := rfl
@[simp] theorem setVoice_nextName (s : State) (k : Nat) (v : Voice) : (setVoice s k v).nextName = s.nextName := rfl
@[simp] theorem setVoice_pending (s : State) (k : Nat) (v : Voice) : (setVoice s k v).pending = s.pending := rfl
@[simp] theorem setVoice_busOut (s : State) (k : Nat) (v : Voice) : (setVoice s k v).busOut = s.busOut := rfl

/-! ## raiseFatal -/

@[simp] theorem raiseFatal_cfg (c : FatalCause) (s : State) : (raiseFatal c s).cfg = s.cfg := rfl
@[simp] theorem raiseFatal_curr (c : FatalCause) (s : State) : (raiseFatal c s).curr = s.curr := rfl
@[simp] theorem raiseFatal_noise (c : FatalCause) (s : State) : (raiseFatal c s).noise = s.noise := rfl
@[simp] theorem raiseFatal_fault (c : FatalCause) (s : State) : (raiseFatal c s).fault = true := rfl
@[simp] theorem raiseFatal_active (c : FatalCause) (s : State) : (raiseFatal c s).active = s.active := rfl
@[simp] theorem raiseFatal_voices (c : FatalCause) (s : State) : (raiseFatal c s).voices = s.voices := rfl
@[simp] theorem raiseFatal_queue (c : FatalCause) (s : State) : (raiseFatal c s).queue = s.queue := rfl
@[simp] theorem raiseFatal_arg0 (c : FatalCause) (s : State) : (raiseFatal c s).arg0 = s.arg0 := rfl
@[simp] theorem raiseFatal_arg1 (c : FatalCause) (s : State) : (raiseFatal c s).arg1 = s.arg1 := rfl
@[simp] theorem raiseFatal_arg2 (c : FatalCause) (s : State) : (raiseFatal c s).arg2 = s.arg2 := rfl
@[simp] theorem raiseFatal_pins (c : FatalCause) (s : State) : (raiseFatal c s).pins = s.pins := rfl
@[simp] theorem raiseFatal_mem (c : FatalCause) (s : State) : (raiseFatal c s).mem = s.mem := rfl
@[simp] theorem raiseFatal_acc (c : FatalCause) (s : State) : (raiseFatal c s).acc = s.acc := rfl
@[simp] theorem raiseFatal_srvVoice (c : FatalCause) (s : State) : (raiseFatal c s).srvVoice = s.srvVoice := rfl
@[simp] theorem raiseFatal_srvPos (c : FatalCause) (s : State) : (raiseFatal c s).srvPos = s.srvPos := rfl
@[simp] theorem raiseFatal_nextName (c : FatalCause) (s : State) : (raiseFatal c s).nextName = s.nextName := rfl
@[simp] theorem raiseFatal_pending (c : FatalCause) (s : State) : (raiseFatal c s).pending = s.pending := rfl
@[simp] theorem raiseFatal_busOut (c : FatalCause) (s : State) : (raiseFatal c s).busOut = s.busOut := rfl

/-! ## engineReset -/

@[simp] theorem engineReset_cfg (s : State) : (engineReset s).cfg = s.cfg := rfl
@[simp] theorem engineReset_curr (s : State) : (engineReset s).curr = (State.resetWith s.cfg).curr := rfl
@[simp] theorem engineReset_noise (s : State) : (engineReset s).noise = (State.resetWith s.cfg).noise := rfl
@[simp] theorem engineReset_fault (s : State) : (engineReset s).fault = (State.resetWith s.cfg).fault := rfl
@[simp] theorem engineReset_active (s : State) : (engineReset s).active = (State.resetWith s.cfg).active := rfl
@[simp] theorem engineReset_voices (s : State) : (engineReset s).voices = (State.resetWith s.cfg).voices := rfl
@[simp] theorem engineReset_queue (s : State) : (engineReset s).queue = (State.resetWith s.cfg).queue := rfl
@[simp] theorem engineReset_arg0 (s : State) : (engineReset s).arg0 = (State.resetWith s.cfg).arg0 := rfl
@[simp] theorem engineReset_arg1 (s : State) : (engineReset s).arg1 = (State.resetWith s.cfg).arg1 := rfl
@[simp] theorem engineReset_arg2 (s : State) : (engineReset s).arg2 = (State.resetWith s.cfg).arg2 := rfl
@[simp] theorem engineReset_pins (s : State) : (engineReset s).pins = (State.resetWith s.cfg).pins := rfl
@[simp] theorem engineReset_mem (s : State) : (engineReset s).mem = s.mem := rfl
@[simp] theorem engineReset_acc (s : State) : (engineReset s).acc = (State.resetWith s.cfg).acc := rfl
@[simp] theorem engineReset_srvVoice (s : State) : (engineReset s).srvVoice = (State.resetWith s.cfg).srvVoice := rfl
@[simp] theorem engineReset_srvPos (s : State) : (engineReset s).srvPos = (State.resetWith s.cfg).srvPos := rfl
@[simp] theorem engineReset_nextName (s : State) : (engineReset s).nextName = (State.resetWith s.cfg).nextName := rfl
@[simp] theorem engineReset_pending (s : State) : (engineReset s).pending = s.pending := rfl
@[simp] theorem engineReset_busOut (s : State) : (engineReset s).busOut = (State.resetWith s.cfg).busOut := rfl

/-! ## openWindow -/

@[simp] theorem openWindow_cfg (n : Nat) (s : State) : (openWindow n s).cfg = s.cfg := rfl
@[simp] theorem openWindow_curr (n : Nat) (s : State) : (openWindow n s).curr = s.curr := rfl
@[simp] theorem openWindow_noise (n : Nat) (s : State) : (openWindow n s).noise = s.noise := rfl
@[simp] theorem openWindow_fault (n : Nat) (s : State) : (openWindow n s).fault = s.fault := rfl
@[simp] theorem openWindow_active (n : Nat) (s : State) : (openWindow n s).active = s.active := rfl
@[simp] theorem openWindow_voices (n : Nat) (s : State) : (openWindow n s).voices = s.voices := rfl
@[simp] theorem openWindow_queue (n : Nat) (s : State) : (openWindow n s).queue = s.queue := rfl
@[simp] theorem openWindow_arg0 (n : Nat) (s : State) : (openWindow n s).arg0 = s.arg0 := rfl
@[simp] theorem openWindow_arg1 (n : Nat) (s : State) : (openWindow n s).arg1 = s.arg1 := rfl
@[simp] theorem openWindow_arg2 (n : Nat) (s : State) : (openWindow n s).arg2 = s.arg2 := rfl
@[simp] theorem openWindow_pins (n : Nat) (s : State) : (openWindow n s).pins = s.pins := rfl
@[simp] theorem openWindow_mem (n : Nat) (s : State) : (openWindow n s).mem = s.mem := rfl
@[simp] theorem openWindow_acc (n : Nat) (s : State) : (openWindow n s).acc = List.replicate n 0 := rfl
@[simp] theorem openWindow_srvVoice (n : Nat) (s : State) : (openWindow n s).srvVoice = 0 := rfl
@[simp] theorem openWindow_srvPos (n : Nat) (s : State) : (openWindow n s).srvPos = 0 := rfl
@[simp] theorem openWindow_nextName (n : Nat) (s : State) : (openWindow n s).nextName = s.nextName := rfl
@[simp] theorem openWindow_pending (n : Nat) (s : State) : (openWindow n s).pending = s.pending := rfl
@[simp] theorem openWindow_busOut (n : Nat) (s : State) : (openWindow n s).busOut = s.busOut := rfl

/-! ## closeWindow -/

@[simp] theorem closeWindow_cfg (dst : Nat) (s : State) : (closeWindow dst s).cfg = s.cfg := rfl
@[simp] theorem closeWindow_curr (dst : Nat) (s : State) : (closeWindow dst s).curr = s.curr + BitVec.ofNat 64 s.acc.length := rfl
@[simp] theorem closeWindow_noise (dst : Nat) (s : State) : (closeWindow dst s).noise = s.noise := rfl
@[simp] theorem closeWindow_fault (dst : Nat) (s : State) : (closeWindow dst s).fault = s.fault := rfl
@[simp] theorem closeWindow_active (dst : Nat) (s : State) : (closeWindow dst s).active = s.active := rfl
@[simp] theorem closeWindow_voices (dst : Nat) (s : State) : (closeWindow dst s).voices = s.voices := rfl
@[simp] theorem closeWindow_queue (dst : Nat) (s : State) : (closeWindow dst s).queue = s.queue := rfl
@[simp] theorem closeWindow_arg0 (dst : Nat) (s : State) : (closeWindow dst s).arg0 = s.arg0 := rfl
@[simp] theorem closeWindow_arg1 (dst : Nat) (s : State) : (closeWindow dst s).arg1 = s.arg1 := rfl
@[simp] theorem closeWindow_arg2 (dst : Nat) (s : State) : (closeWindow dst s).arg2 = s.arg2 := rfl
@[simp] theorem closeWindow_pins (dst : Nat) (s : State) : (closeWindow dst s).pins = s.pins := rfl
@[simp] theorem closeWindow_mem (dst : Nat) (s : State) : (closeWindow dst s).mem = storeSamples s.cfg dst s.acc s.mem := rfl
@[simp] theorem closeWindow_acc (dst : Nat) (s : State) : (closeWindow dst s).acc = [] := rfl
@[simp] theorem closeWindow_srvVoice (dst : Nat) (s : State) : (closeWindow dst s).srvVoice = 0 := rfl
@[simp] theorem closeWindow_srvPos (dst : Nat) (s : State) : (closeWindow dst s).srvPos = 0 := rfl
@[simp] theorem closeWindow_nextName (dst : Nat) (s : State) : (closeWindow dst s).nextName = s.nextName := rfl
@[simp] theorem closeWindow_pending (dst : Nat) (s : State) : (closeWindow dst s).pending = s.pending := rfl
@[simp] theorem closeWindow_busOut (dst : Nat) (s : State) : (closeWindow dst s).busOut = s.busOut := rfl

/-! ## enterInstr -/

@[simp] theorem enterInstr_cfg (code : Byte) (op : SoundOps) (s : State) : (enterInstr code op s).cfg = s.cfg := rfl
@[simp] theorem enterInstr_curr (code : Byte) (op : SoundOps) (s : State) : (enterInstr code op s).curr = s.curr := rfl
@[simp] theorem enterInstr_noise (code : Byte) (op : SoundOps) (s : State) : (enterInstr code op s).noise = s.noise := rfl
@[simp] theorem enterInstr_fault (code : Byte) (op : SoundOps) (s : State) : (enterInstr code op s).fault = s.fault := rfl
@[simp] theorem enterInstr_active (code : Byte) (op : SoundOps) (s : State) : (enterInstr code op s).active = s.active := rfl
@[simp] theorem enterInstr_voices (code : Byte) (op : SoundOps) (s : State) : (enterInstr code op s).voices = s.voices.set s.srvVoice (enterVoice s.cfg code (clampOps op) (getVoice s s.srvVoice)) := rfl
@[simp] theorem enterInstr_queue (code : Byte) (op : SoundOps) (s : State) : (enterInstr code op s).queue = s.queue := rfl
@[simp] theorem enterInstr_arg0 (code : Byte) (op : SoundOps) (s : State) : (enterInstr code op s).arg0 = s.arg0 := rfl
@[simp] theorem enterInstr_arg1 (code : Byte) (op : SoundOps) (s : State) : (enterInstr code op s).arg1 = s.arg1 := rfl
@[simp] theorem enterInstr_arg2 (code : Byte) (op : SoundOps) (s : State) : (enterInstr code op s).arg2 = s.arg2 := rfl
@[simp] theorem enterInstr_pins (code : Byte) (op : SoundOps) (s : State) : (enterInstr code op s).pins = s.pins := rfl
@[simp] theorem enterInstr_mem (code : Byte) (op : SoundOps) (s : State) : (enterInstr code op s).mem = s.mem := rfl
@[simp] theorem enterInstr_acc (code : Byte) (op : SoundOps) (s : State) : (enterInstr code op s).acc = s.acc := rfl
@[simp] theorem enterInstr_srvVoice (code : Byte) (op : SoundOps) (s : State) : (enterInstr code op s).srvVoice = s.srvVoice := rfl
@[simp] theorem enterInstr_srvPos (code : Byte) (op : SoundOps) (s : State) : (enterInstr code op s).srvPos = s.srvPos := rfl
@[simp] theorem enterInstr_nextName (code : Byte) (op : SoundOps) (s : State) : (enterInstr code op s).nextName = s.nextName := rfl
@[simp] theorem enterInstr_pending (code : Byte) (op : SoundOps) (s : State) : (enterInstr code op s).pending = s.pending := rfl
@[simp] theorem enterInstr_busOut (code : Byte) (op : SoundOps) (s : State) : (enterInstr code op s).busOut = s.busOut := rfl

/-! ## sampleStep -/

@[simp] theorem sampleStep_cfg (s : State) : (sampleStep s).cfg = s.cfg := rfl
@[simp] theorem sampleStep_curr (s : State) : (sampleStep s).curr = s.curr := rfl
@[simp] theorem sampleStep_noise (s : State) : (sampleStep s).noise = (waveGen s.cfg (getVoice s s.srvVoice).wave (phaseIdx (getVoice s s.srvVoice).phase) s.noise).2 := rfl
@[simp] theorem sampleStep_fault (s : State) : (sampleStep s).fault = s.fault := rfl
@[simp] theorem sampleStep_active (s : State) : (sampleStep s).active = s.active := rfl
@[simp] theorem sampleStep_voices (s : State) : (sampleStep s).voices = s.voices.set s.srvVoice (advanceVoice (getVoice s s.srvVoice)) := rfl
@[simp] theorem sampleStep_queue (s : State) : (sampleStep s).queue = s.queue := rfl
@[simp] theorem sampleStep_arg0 (s : State) : (sampleStep s).arg0 = s.arg0 := rfl
@[simp] theorem sampleStep_arg1 (s : State) : (sampleStep s).arg1 = s.arg1 := rfl
@[simp] theorem sampleStep_arg2 (s : State) : (sampleStep s).arg2 = s.arg2 := rfl
@[simp] theorem sampleStep_pins (s : State) : (sampleStep s).pins = s.pins := rfl
@[simp] theorem sampleStep_mem (s : State) : (sampleStep s).mem = s.mem := rfl
@[simp] theorem sampleStep_acc (s : State) : (sampleStep s).acc = s.acc.modify s.srvPos (· + contribution s.cfg (waveGen s.cfg (getVoice s s.srvVoice).wave (phaseIdx (getVoice s s.srvVoice).phase) s.noise).1 (getVoice s s.srvVoice).vol) := rfl
@[simp] theorem sampleStep_srvVoice (s : State) : (sampleStep s).srvVoice = s.srvVoice := rfl
@[simp] theorem sampleStep_srvPos (s : State) : (sampleStep s).srvPos = s.srvPos + 1 := rfl
@[simp] theorem sampleStep_nextName (s : State) : (sampleStep s).nextName = s.nextName := rfl
@[simp] theorem sampleStep_pending (s : State) : (sampleStep s).pending = s.pending := rfl
@[simp] theorem sampleStep_busOut (s : State) : (sampleStep s).busOut = s.busOut := rfl

/-! ## retireVoice -/

@[simp] theorem retireVoice_cfg (s : State) : (retireVoice s).cfg = s.cfg := rfl
@[simp] theorem retireVoice_curr (s : State) : (retireVoice s).curr = s.curr := rfl
@[simp] theorem retireVoice_noise (s : State) : (retireVoice s).noise = s.noise := rfl
@[simp] theorem retireVoice_fault (s : State) : (retireVoice s).fault = s.fault := rfl
@[simp] theorem retireVoice_active (s : State) : (retireVoice s).active = s.active := rfl
@[simp] theorem retireVoice_voices (s : State) : (retireVoice s).voices = s.voices.set s.srvVoice { getVoice s s.srvVoice with req := none } := rfl
@[simp] theorem retireVoice_queue (s : State) : (retireVoice s).queue = setBoundState s.queue (getVoice s s.srvVoice).req .done := rfl
@[simp] theorem retireVoice_arg0 (s : State) : (retireVoice s).arg0 = s.arg0 := rfl
@[simp] theorem retireVoice_arg1 (s : State) : (retireVoice s).arg1 = s.arg1 := rfl
@[simp] theorem retireVoice_arg2 (s : State) : (retireVoice s).arg2 = s.arg2 := rfl
@[simp] theorem retireVoice_pins (s : State) : (retireVoice s).pins = s.pins := rfl
@[simp] theorem retireVoice_mem (s : State) : (retireVoice s).mem = s.mem := rfl
@[simp] theorem retireVoice_acc (s : State) : (retireVoice s).acc = s.acc := rfl
@[simp] theorem retireVoice_srvVoice (s : State) : (retireVoice s).srvVoice = s.srvVoice := rfl
@[simp] theorem retireVoice_srvPos (s : State) : (retireVoice s).srvPos = s.srvPos := rfl
@[simp] theorem retireVoice_nextName (s : State) : (retireVoice s).nextName = s.nextName := rfl
@[simp] theorem retireVoice_pending (s : State) : (retireVoice s).pending = s.pending := rfl
@[simp] theorem retireVoice_busOut (s : State) : (retireVoice s).busOut = s.busOut := rfl

/-! ## promote -/

@[simp] theorem promote_cfg (e : Entry) (s : State) : (promote e s).cfg = s.cfg := rfl
@[simp] theorem promote_curr (e : Entry) (s : State) : (promote e s).curr = s.curr := rfl
@[simp] theorem promote_noise (e : Entry) (s : State) : (promote e s).noise = s.noise := rfl
@[simp] theorem promote_fault (e : Entry) (s : State) : (promote e s).fault = s.fault := rfl
@[simp] theorem promote_active (e : Entry) (s : State) : (promote e s).active = s.active := rfl
@[simp] theorem promote_voices (e : Entry) (s : State) : (promote e s).voices = s.voices.set (chooseVoice s.voices) (bindVoice e s.curr (getVoice s (chooseVoice s.voices))) := rfl
@[simp] theorem promote_queue (e : Entry) (s : State) : (promote e s).queue = setEntryState (setBoundState s.queue (getVoice s (chooseVoice s.voices)).req .done) e.name .playing := rfl
@[simp] theorem promote_arg0 (e : Entry) (s : State) : (promote e s).arg0 = s.arg0 := rfl
@[simp] theorem promote_arg1 (e : Entry) (s : State) : (promote e s).arg1 = s.arg1 := rfl
@[simp] theorem promote_arg2 (e : Entry) (s : State) : (promote e s).arg2 = s.arg2 := rfl
@[simp] theorem promote_pins (e : Entry) (s : State) : (promote e s).pins = s.pins := rfl
@[simp] theorem promote_mem (e : Entry) (s : State) : (promote e s).mem = s.mem := rfl
@[simp] theorem promote_acc (e : Entry) (s : State) : (promote e s).acc = s.acc := rfl
@[simp] theorem promote_srvVoice (e : Entry) (s : State) : (promote e s).srvVoice = s.srvVoice := rfl
@[simp] theorem promote_srvPos (e : Entry) (s : State) : (promote e s).srvPos = s.srvPos := rfl
@[simp] theorem promote_nextName (e : Entry) (s : State) : (promote e s).nextName = s.nextName := rfl
@[simp] theorem promote_pending (e : Entry) (s : State) : (promote e s).pending = s.pending := rfl
@[simp] theorem promote_busOut (e : Entry) (s : State) : (promote e s).busOut = s.busOut := rfl

/-! ## sweep -/

@[simp] theorem sweep_cfg (s : State) : (sweep s).cfg = s.cfg := rfl
@[simp] theorem sweep_curr (s : State) : (sweep s).curr = s.curr := rfl
@[simp] theorem sweep_noise (s : State) : (sweep s).noise = s.noise := rfl
@[simp] theorem sweep_fault (s : State) : (sweep s).fault = s.fault := rfl
@[simp] theorem sweep_active (s : State) : (sweep s).active = s.active := rfl
@[simp] theorem sweep_voices (s : State) : (sweep s).voices = s.voices := rfl
@[simp] theorem sweep_queue (s : State) : (sweep s).queue = s.queue.filter (fun e => !isDone e) := rfl
@[simp] theorem sweep_arg0 (s : State) : (sweep s).arg0 = s.arg0 := rfl
@[simp] theorem sweep_arg1 (s : State) : (sweep s).arg1 = s.arg1 := rfl
@[simp] theorem sweep_arg2 (s : State) : (sweep s).arg2 = s.arg2 := rfl
@[simp] theorem sweep_pins (s : State) : (sweep s).pins = s.pins ++ unpins (s.queue.filter isDone) := rfl
@[simp] theorem sweep_mem (s : State) : (sweep s).mem = s.mem := rfl
@[simp] theorem sweep_acc (s : State) : (sweep s).acc = s.acc := rfl
@[simp] theorem sweep_srvVoice (s : State) : (sweep s).srvVoice = s.srvVoice := rfl
@[simp] theorem sweep_srvPos (s : State) : (sweep s).srvPos = s.srvPos := rfl
@[simp] theorem sweep_nextName (s : State) : (sweep s).nextName = s.nextName := rfl
@[simp] theorem sweep_pending (s : State) : (sweep s).pending = s.pending := rfl
@[simp] theorem sweep_busOut (s : State) : (sweep s).busOut = s.busOut := rfl

/-! ## enqueue -/

@[simp] theorem enqueue_cfg (d : Int) (b l : Nat) (s : State) : (enqueue d b l s).cfg = s.cfg := rfl
@[simp] theorem enqueue_curr (d : Int) (b l : Nat) (s : State) : (enqueue d b l s).curr = s.curr := rfl
@[simp] theorem enqueue_noise (d : Int) (b l : Nat) (s : State) : (enqueue d b l s).noise = s.noise := rfl
@[simp] theorem enqueue_fault (d : Int) (b l : Nat) (s : State) : (enqueue d b l s).fault = s.fault := rfl
@[simp] theorem enqueue_active (d : Int) (b l : Nat) (s : State) : (enqueue d b l s).active = s.active := rfl
@[simp] theorem enqueue_voices (d : Int) (b l : Nat) (s : State) : (enqueue d b l s).voices = s.voices := rfl
@[simp] theorem enqueue_queue (d : Int) (b l : Nat) (s : State) : (enqueue d b l s).queue = newEntry d b l s :: s.queue := rfl
@[simp] theorem enqueue_arg0 (d : Int) (b l : Nat) (s : State) : (enqueue d b l s).arg0 = s.arg0 := rfl
@[simp] theorem enqueue_arg1 (d : Int) (b l : Nat) (s : State) : (enqueue d b l s).arg1 = s.arg1 := rfl
@[simp] theorem enqueue_arg2 (d : Int) (b l : Nat) (s : State) : (enqueue d b l s).arg2 = s.arg2 := rfl
@[simp] theorem enqueue_pins (d : Int) (b l : Nat) (s : State) : (enqueue d b l s).pins = s.pins ++ [.pin b l] := rfl
@[simp] theorem enqueue_mem (d : Int) (b l : Nat) (s : State) : (enqueue d b l s).mem = s.mem := rfl
@[simp] theorem enqueue_acc (d : Int) (b l : Nat) (s : State) : (enqueue d b l s).acc = s.acc := rfl
@[simp] theorem enqueue_srvVoice (d : Int) (b l : Nat) (s : State) : (enqueue d b l s).srvVoice = s.srvVoice := rfl
@[simp] theorem enqueue_srvPos (d : Int) (b l : Nat) (s : State) : (enqueue d b l s).srvPos = s.srvPos := rfl
@[simp] theorem enqueue_nextName (d : Int) (b l : Nat) (s : State) : (enqueue d b l s).nextName = s.nextName + 1 := rfl
@[simp] theorem enqueue_pending (d : Int) (b l : Nat) (s : State) : (enqueue d b l s).pending = s.pending := rfl
@[simp] theorem enqueue_busOut (d : Int) (b l : Nat) (s : State) : (enqueue d b l s).busOut = s.busOut := rfl

/-! ## enterVoice -/

@[simp] theorem enterVoice_req (c : Config) (code : Byte) (o : Clamped) (v : Voice) : (enterVoice c code o v).req = v.req := rfl
@[simp] theorem enterVoice_start (c : Config) (code : Byte) (o : Clamped) (v : Voice) : (enterVoice c code o v).start = v.start := rfl
@[simp] theorem enterVoice_cur (c : Config) (code : Byte) (o : Clamped) (v : Voice) : (enterVoice c code o v).cur = v.cur := rfl
@[simp] theorem enterVoice_endIdx (c : Config) (code : Byte) (o : Clamped) (v : Voice) : (enterVoice c code o v).endIdx = v.endIdx := rfl
@[simp] theorem enterVoice_phase (c : Config) (code : Byte) (o : Clamped) (v : Voice) : (enterVoice c code o v).phase = v.phase := rfl
@[simp] theorem enterVoice_cv (c : Config) (code : Byte) (o : Clamped) (v : Voice) : (enterVoice c code o v).cv = true := rfl
@[simp] theorem enterVoice_vol (c : Config) (code : Byte) (o : Clamped) (v : Voice) : (enterVoice c code o v).vol = BitVec.ofNat 32 (o.sv * 2 ^ 16) := rfl
@[simp] theorem enterVoice_tstep (c : Config) (code : Byte) (o : Clamped) (v : Voice) : (enterVoice c code o v).tstep = BitVec.ofNat 32 (tonestep c o.f) := rfl
@[simp] theorem enterVoice_tdelta (c : Config) (code : Byte) (o : Clamped) (v : Voice) : (enterVoice c code o v).tdelta = BitVec.ofInt 32 (toneDelta c o) := rfl
@[simp] theorem enterVoice_sleft (c : Config) (code : Byte) (o : Clamped) (v : Voice) : (enterVoice c code o v).sleft = BitVec.ofNat 32 (sampleCount c o.d) := rfl
@[simp] theorem enterVoice_vstep (c : Config) (code : Byte) (o : Clamped) (v : Voice) : (enterVoice c code o v).vstep = BitVec.ofInt 32 (volumeStep c o) := rfl
@[simp] theorem enterVoice_wave (c : Config) (code : Byte) (o : Clamped) (v : Voice) : (enterVoice c code o v).wave = code := rfl

/-! ## advanceVoice -/

@[simp] theorem advanceVoice_req (v : Voice) : (advanceVoice v).req = v.req := rfl
@[simp] theorem advanceVoice_start (v : Voice) : (advanceVoice v).start = v.start := rfl
@[simp] theorem advanceVoice_cur (v : Voice) : (advanceVoice v).cur = v.cur := rfl
@[simp] theorem advanceVoice_endIdx (v : Voice) : (advanceVoice v).endIdx = v.endIdx := rfl
@[simp] theorem advanceVoice_phase (v : Voice) : (advanceVoice v).phase = v.phase + v.tstep := rfl
@[simp] theorem advanceVoice_cv (v : Voice) : (advanceVoice v).cv = v.cv := rfl
@[simp] theorem advanceVoice_vol (v : Voice) : (advanceVoice v).vol = v.vol + v.vstep := rfl
@[simp] theorem advanceVoice_tstep (v : Voice) : (advanceVoice v).tstep = v.tstep + v.tdelta := rfl
@[simp] theorem advanceVoice_tdelta (v : Voice) : (advanceVoice v).tdelta = v.tdelta := rfl
@[simp] theorem advanceVoice_sleft (v : Voice) : (advanceVoice v).sleft = v.sleft - 1#32 := rfl
@[simp] theorem advanceVoice_vstep (v : Voice) : (advanceVoice v).vstep = v.vstep := rfl
@[simp] theorem advanceVoice_wave (v : Voice) : (advanceVoice v).wave = v.wave := rfl

/-! ## bindVoice -/

@[simp] theorem bindVoice_req (e : Entry) (t : Clock) (v : Voice) : (bindVoice e t v).req = some e.name := rfl
@[simp] theorem bindVoice_start (e : Entry) (t : Clock) (v : Voice) : (bindVoice e t v).start = t := rfl
@[simp] theorem bindVoice_cur (e : Entry) (t : Clock) (v : Voice) : (bindVoice e t v).cur = 0 := rfl
@[simp] theorem bindVoice_endIdx (e : Entry) (t : Clock) (v : Voice) : (bindVoice e t v).endIdx = e.len / instrSize := rfl
@[simp] theorem bindVoice_phase (e : Entry) (t : Clock) (v : Voice) : (bindVoice e t v).phase = v.phase := rfl
@[simp] theorem bindVoice_cv (e : Entry) (t : Clock) (v : Voice) : (bindVoice e t v).cv = false := rfl
@[simp] theorem bindVoice_vol (e : Entry) (t : Clock) (v : Voice) : (bindVoice e t v).vol = v.vol := rfl
@[simp] theorem bindVoice_tstep (e : Entry) (t : Clock) (v : Voice) : (bindVoice e t v).tstep = v.tstep := rfl
@[simp] theorem bindVoice_tdelta (e : Entry) (t : Clock) (v : Voice) : (bindVoice e t v).tdelta = v.tdelta := rfl
@[simp] theorem bindVoice_sleft (e : Entry) (t : Clock) (v : Voice) : (bindVoice e t v).sleft = v.sleft := rfl
@[simp] theorem bindVoice_vstep (e : Entry) (t : Clock) (v : Voice) : (bindVoice e t v).vstep = v.vstep := rfl
@[simp] theorem bindVoice_wave (e : Entry) (t : Clock) (v : Voice) : (bindVoice e t v).wave = v.wave := rfl

end Sys2Proof.Machine
end

