-- ==== Sys2Proof/Laws/Voices.lean ====
section
/-! SUPPORT. Laws of sequencing, of the voices and of the queue's entries. -/

namespace Sys2Proof.Machine

/-! ## Sequencing -/

@[simp] theorem andThen_next {σ τ : Type} (s : σ) (f : σ → Host.Outcome τ Fault Refusal) :
    andThen (.next s) f = f s := rfl

@[simp] theorem andThen_fault {σ τ : Type} (r : Fault) (f : σ → Host.Outcome τ Fault Refusal) :
    andThen (.fault r) f = .fault r := rfl

@[simp] theorem andThen_refused {σ τ : Type} (r : Refusal) (f : σ → Host.Outcome τ Fault Refusal) :
    andThen (.refused r) f = .refused r := rfl

/-- A sequence answers a next state when both its parts do. -/
theorem andThen_eq_next {σ τ : Type} {o : Host.Outcome σ Fault Refusal} {f : σ → Host.Outcome τ Fault Refusal}
    {t : τ} : andThen o f = .next t ↔ ∃ s, o = .next s ∧ f s = .next t := by
  cases o <;> simp [andThen]

/-- A sequence faults where one of its parts does. -/
theorem andThen_eq_fault {σ τ : Type} {o : Host.Outcome σ Fault Refusal} {f : σ → Host.Outcome τ Fault Refusal}
    {r : Fault} : andThen o f = .fault r ↔ o = .fault r ∨ ∃ s, o = .next s ∧ f s = .fault r := by
  cases o <;> simp [andThen]

/-! ## Voices -/

@[simp] theorem setVoice_length (s : State) (k : Nat) (v : Voice) :
    (setVoice s k v).voices.length = s.voices.length := by simp

/-- Reading a voice after writing one. -/
theorem getVoice_setVoice (s : State) (k j : Nat) (v : Voice) :
    getVoice (setVoice s k v) j = if j = k ∧ k < s.voices.length then v else getVoice s j := by
  simp only [getVoice, setVoice, List.getD_eq_getElem?_getD, List.getElem?_set]
  by_cases h : k = j
  · subst h
    by_cases hk : k < s.voices.length <;> simp [hk]
  · simp [h, Ne.symm h]

theorem getVoice_setVoice_self {s : State} {k : Nat} (hk : k < s.voices.length) (v : Voice) :
    getVoice (setVoice s k v) k = v := by simp [getVoice_setVoice, hk]

theorem getVoice_setVoice_other (s : State) {k j : Nat} (v : Voice) (h : j ≠ k) :
    getVoice (setVoice s k v) j = getVoice s j := by simp [getVoice_setVoice, h]

theorem getVoice_mem {s : State} {k : Nat} (hk : k < s.voices.length) : getVoice s k ∈ s.voices := by
  simp only [getVoice, List.getD_eq_getElem?_getD, List.getElem?_eq_getElem hk, Option.getD_some]
  exact List.getElem_mem hk

/-- There is no voice past the pool, so a bound voice has an index inside it. -/
theorem lt_of_isBound {s : State} {k : Nat} (h : isBound (getVoice s k) = true) : k < s.voices.length := by
  by_contra hk
  simp [getVoice, List.getD_eq_getElem?_getD, List.getElem?_eq_none (Nat.le_of_not_lt hk), isBound,
    Voice.reset] at h

theorem mem_setVoice {s : State} {k : Nat} {v w : Voice} (h : w ∈ (setVoice s k v).voices) :
    w = v ∨ w ∈ s.voices := (List.mem_or_eq_of_mem_set h).symm

/-- The voices read alike where the lists are equal. -/
theorem getVoice_congr {s t : State} (h : s.voices = t.voices) (k : Nat) : getVoice s k = getVoice t k := by
  simp [getVoice, h]

/-! ## Entries -/

theorem findEntry_some {q : List Entry} {n : Nat} {e : Entry} (h : findEntry q n = some e) :
    e ∈ q ∧ e.name = n :=
  ⟨List.mem_of_find?_eq_some h, by simpa using List.find?_some h⟩

/-- With distinct names an entry is found by its own. -/
theorem findEntry_of_mem {q : List Entry} (hq : (q.map Entry.name).Nodup) {e : Entry} (he : e ∈ q) :
    findEntry q e.name = some e := by
  induction q with
  | nil => simp at he
  | cons d q ih =>
    simp only [List.map_cons, List.nodup_cons] at hq
    rcases List.mem_cons.1 he with rfl | he
    · simp [findEntry]
    · have hne : d.name ≠ e.name := fun h => hq.1 (h ▸ List.mem_map_of_mem he)
      rw [findEntry, List.find?_cons_of_neg (by simpa using hne)]
      exact ih hq.2 he

/-- Writing STATE changes nothing else of any entry (R38: BASE, LEN and START never change). -/
theorem setEntryState_map {α : Type} (f : Entry → α) (hf : ∀ e st, f { e with state := st } = f e)
    (q : List Entry) (n : Nat) (st : EntryState) : (setEntryState q n st).map f = q.map f := by
  simp only [setEntryState, List.map_map]
  refine List.map_congr_left fun e _ => ?_
  simp only [Function.comp]
  split <;> simp [hf]

theorem setBoundState_map {α : Type} (f : Entry → α) (hf : ∀ e st, f { e with state := st } = f e)
    (q : List Entry) (r : Option Nat) (st : EntryState) : (setBoundState q r st).map f = q.map f := by
  cases r with
  | none => rfl
  | some n => exact setEntryState_map f hf q n st

@[simp] theorem setEntryState_length (q : List Entry) (n : Nat) (st : EntryState) :
    (setEntryState q n st).length = q.length := by simp [setEntryState]

@[simp] theorem setBoundState_length (q : List Entry) (r : Option Nat) (st : EntryState) :
    (setBoundState q r st).length = q.length := by cases r <;> simp [setBoundState]

@[simp] theorem setEntryState_names (q : List Entry) (n : Nat) (st : EntryState) :
    (setEntryState q n st).map Entry.name = q.map Entry.name := setEntryState_map _ (fun _ _ => rfl) q n st

@[simp] theorem setBoundState_names (q : List Entry) (r : Option Nat) (st : EntryState) :
    (setBoundState q r st).map Entry.name = q.map Entry.name := setBoundState_map _ (fun _ _ => rfl) q r st

/-- An entry of a rewritten queue is an old one, with the new STATE where it has the name. -/
theorem mem_setEntryState {q : List Entry} {n : Nat} {st : EntryState} {e : Entry}
    (h : e ∈ setEntryState q n st) :
    (e ∈ q ∧ e.name ≠ n) ∨ ∃ d ∈ q, d.name = n ∧ e = { d with state := st } := by
  simp only [setEntryState, List.mem_map] at h
  obtain ⟨d, hd, rfl⟩ := h
  by_cases hn : d.name = n
  · exact .inr ⟨d, hd, hn, by simp [hn]⟩
  · exact .inl ⟨by simpa [hn] using hd, by simp [hn]⟩

end Sys2Proof.Machine
end

