-- ==== Sys2Proof/Laws/Scheduler.lean ====
section
/-! SUPPORT. What a scan, a promotion and a scheduling step can do. -/

namespace Sys2Proof.Machine

/-- A scan that finds an entry finds a due Waiting one (R187). -/
theorem scanQueue_due {curr : Clock} {q : List Entry} {t u : Option Nat} {e : Entry}
    (h : scanQueue curr q t = (some e, u)) :
    e ∈ q ∧ isWaiting e = true ∧ e.start.toNat ≤ curr.toNat := by
  induction q generalizing t with
  | nil => simp [scanQueue] at h
  | cons d q ih =>
    simp only [scanQueue] at h
    split at h
    · rename_i hw
      split at h
      · rename_i hle
        simp only [Prod.mk.injEq, Option.some.injEq] at h
        obtain ⟨rfl, _⟩ := h
        exact ⟨by simp, hw, hle⟩
      · obtain ⟨h1, h2⟩ := ih h
        exact ⟨List.mem_cons_of_mem _ h1, h2⟩
    · obtain ⟨h1, h2⟩ := ih h
      exact ⟨List.mem_cons_of_mem _ h1, h2⟩

/-- A scan that finds none has passed no due entry. -/
theorem scanQueue_none {curr : Clock} {q : List Entry} {t u : Option Nat}
    (h : scanQueue curr q t = (none, u)) : ∀ e ∈ q, isWaiting e = true → curr.toNat < e.start.toNat := by
  induction q generalizing t with
  | nil => simp
  | cons d q ih =>
    simp only [scanQueue] at h
    intro e he hw
    split at h
    · split at h
      · simp at h
      · rcases List.mem_cons.1 he with rfl | he
        · omega
        · exact ih h e he hw
    · rename_i hd
      rcases List.mem_cons.1 he with rfl | he
      · exact absurd hw hd
      · exact ih h e he hw

/-- A scan that finds no due entry gives back a time that is positive. -/
theorem scanQueue_time_pos {curr : Clock} {q : List Entry} {t u : Option Nat} (ht : ∀ x, t = some x → 0 < x)
    (h : scanQueue curr q t = (none, u)) : ∀ x, u = some x → 0 < x := by
  induction q generalizing t with
  | nil =>
    simp only [scanQueue, Prod.mk.injEq, true_and] at h
    exact h ▸ ht
  | cons d q ih =>
    simp only [scanQueue] at h
    split at h
    · split at h
      · simp at h
      · refine ih (fun x hx => ?_) h
        cases t with
        | none => simp only [minLeft, Option.some.injEq] at hx; omega
        | some y =>
          have := ht y rfl
          simp only [minLeft, Option.some.injEq] at hx
          omega
    · exact ih ht h

/-- A promotion changes no entry but its STATE (R38). -/
theorem promote_map {α : Type} (f : Entry → α) (hf : ∀ e st, f { e with state := st } = f e) (e : Entry)
    (s : State) : (promote e s).queue.map f = s.queue.map f := by
  rw [promote_queue, setEntryState_map f hf, setBoundState_map f hf]

@[simp] theorem promote_queue_length (e : Entry) (s : State) : (promote e s).queue.length = s.queue.length := by
  simp

@[simp] theorem promote_voices_length (e : Entry) (s : State) :
    (promote e s).voices.length = s.voices.length := by simp

/-- What every promotion of a due entry keeps, a scheduling step keeps. -/
theorem scheduleLoop_keeps {P : State → Prop}
    (h : ∀ s e, e ∈ s.queue → isWaiting e = true → e.start.toNat ≤ s.curr.toNat → P s → P (promote e s))
    (fuel : Nat) {s : State} (hs : P s) : P (scheduleLoop fuel s).1 := by
  induction fuel generalizing s with
  | zero => exact hs
  | succ fuel ih =>
    simp only [scheduleLoop]
    split
    · rename_i e u he
      obtain ⟨h1, h2, h3⟩ := scanQueue_due he
      exact ih (h s e h1 h2 h3 hs)
    · exact hs

theorem schedule_keeps {P : State → Prop}
    (h : ∀ s e, e ∈ s.queue → isWaiting e = true → e.start.toNat ≤ s.curr.toNat → P s → P (promote e s))
    {s : State} (hs : P s) : P (schedule s).1 := scheduleLoop_keeps h _ hs

/-- What a scheduling step leaves alone: everything but the voices and the STATE of entries (43_scheduler.md: "It reads
and writes only engine registers: it makes no memory access and emits no pin event"). -/
theorem schedule_frame (s : State) :
    (schedule s).1.cfg = s.cfg ∧ (schedule s).1.curr = s.curr ∧ (schedule s).1.noise = s.noise ∧
    (schedule s).1.fault = s.fault ∧ (schedule s).1.active = s.active ∧ (schedule s).1.arg0 = s.arg0 ∧
    (schedule s).1.arg1 = s.arg1 ∧ (schedule s).1.arg2 = s.arg2 ∧ (schedule s).1.pins = s.pins ∧
    (schedule s).1.mem = s.mem ∧ (schedule s).1.acc = s.acc ∧ (schedule s).1.srvVoice = s.srvVoice ∧
    (schedule s).1.srvPos = s.srvPos ∧ (schedule s).1.nextName = s.nextName ∧
    (schedule s).1.pending = s.pending ∧ (schedule s).1.busOut = s.busOut ∧
    (schedule s).1.voices.length = s.voices.length ∧
    (schedule s).1.queue.map Entry.name = s.queue.map Entry.name := by
  refine schedule_keeps (P := fun t => t.cfg = s.cfg ∧ t.curr = s.curr ∧ t.noise = s.noise ∧
    t.fault = s.fault ∧ t.active = s.active ∧ t.arg0 = s.arg0 ∧ t.arg1 = s.arg1 ∧ t.arg2 = s.arg2 ∧
    t.pins = s.pins ∧ t.mem = s.mem ∧ t.acc = s.acc ∧ t.srvVoice = s.srvVoice ∧ t.srvPos = s.srvPos ∧
    t.nextName = s.nextName ∧ t.pending = s.pending ∧ t.busOut = s.busOut ∧
    t.voices.length = s.voices.length ∧ t.queue.map Entry.name = s.queue.map Entry.name) ?_ ?_
  · intro t e _ _ _ ht
    simpa using ht
  · simp

/-- The number of Waiting entries. -/
def waitingCount (q : List Entry) : Nat := q.countP isWaiting

/-- Making an entry's STATE anything but Waiting adds no Waiting entry. -/
theorem waitingCount_setEntryState_le (q : List Entry) (n : Nat) {st : EntryState} (hst : st ≠ .waiting) :
    waitingCount (setEntryState q n st) ≤ waitingCount q := by
  induction q with
  | nil => simp [setEntryState, waitingCount]
  | cons d q ih =>
    simp only [waitingCount, setEntryState, List.map_cons, List.countP_cons] at ih ⊢
    have hd : isWaiting { d with state := st } = false := by simp [isWaiting, hst]
    split
    · rw [hd]; simp only [Bool.false_eq_true, if_false]; omega
    · omega

theorem waitingCount_setBoundState_le (q : List Entry) (r : Option Nat) {st : EntryState} (hst : st ≠ .waiting) :
    waitingCount (setBoundState q r st) ≤ waitingCount q := by
  cases r with
  | none => exact Nat.le_refl _
  | some n => exact waitingCount_setEntryState_le q n hst

/-- After Playing or Done is written to a name, no entry of that name waits. -/
theorem waitingCount_setEntryState_lt {q : List Entry} {e : Entry} (he : e ∈ q) (hw : isWaiting e = true)
    {st : EntryState} (hst : st ≠ .waiting) : waitingCount (setEntryState q e.name st) < waitingCount q := by
  induction q with
  | nil => simp at he
  | cons d q ih =>
    have hd : isWaiting { d with state := st } = false := by simp [isWaiting, hst]
    have hle := waitingCount_setEntryState_le q e.name hst
    simp only [waitingCount, setEntryState, List.map_cons, List.countP_cons] at ih hle ⊢
    rcases List.mem_cons.1 he with rfl | he
    · simp only [if_true, hw, hd, Bool.false_eq_true, if_false]; omega
    · have := ih he
      split
      · rw [hd]; simp only [Bool.false_eq_true, if_false]; omega
      · omega

/-- A promotion of a Waiting entry lowers the number of Waiting entries (R194). -/
theorem waitingCount_promote_lt {s : State} {e : Entry} (he : e ∈ s.queue) (hw : isWaiting e = true) :
    waitingCount (promote e s).queue < waitingCount s.queue := by
  rw [promote_queue]
  generalize hr : (getVoice s (chooseVoice s.voices)).req = r
  by_cases hin : ∃ d ∈ setBoundState s.queue r .done, d.name = e.name ∧ isWaiting d = true
  · obtain ⟨d, hd, hn, hdw⟩ := hin
    have h1 := waitingCount_setEntryState_lt hd hdw (st := .playing) (by simp)
    rw [hn] at h1
    exact lt_of_lt_of_le h1 (waitingCount_setBoundState_le s.queue r (by simp))
  · have h1 := waitingCount_setEntryState_le (setBoundState s.queue r .done) e.name (st := .playing) (by simp)
    refine lt_of_le_of_lt h1 ?_
    cases r with
    | none => exact absurd ⟨e, he, rfl, hw⟩ hin
    | some n =>
      by_cases hne : n = e.name
      · subst hne
        exact waitingCount_setEntryState_lt he hw (by simp)
      · refine absurd ⟨e, ?_, rfl, hw⟩ hin
        simp only [setBoundState, setEntryState, List.mem_map]
        exact ⟨e, he, by simp [Ne.symm hne]⟩

/-- The fuel of `schedule` suffices: the loop ends with a scan that finds nothing due (R194). -/
theorem scheduleLoop_ends {fuel : Nat} {s : State} (hf : waitingCount s.queue < fuel) :
    scanQueue (scheduleLoop fuel s).1.curr (scheduleLoop fuel s).1.queue none = (none, (scheduleLoop fuel s).2) := by
  induction fuel generalizing s with
  | zero => omega
  | succ fuel ih =>
    simp only [scheduleLoop]
    split
    · rename_i e u he
      obtain ⟨h1, h2, _⟩ := scanQueue_due he
      have := waitingCount_promote_lt h1 h2
      exact ih (by omega)
    · rename_i u he
      exact he

theorem schedule_ends (s : State) :
    scanQueue (schedule s).1.curr (schedule s).1.queue none = (none, (schedule s).2) :=
  scheduleLoop_ends (Nat.lt_succ_of_le List.countP_le_length)

end Sys2Proof.Machine
end

