-- ==== Sys2Proof/Laws/Sound.lean ====
section
/-! SUPPORT. What the sound instructions and a voice's run over a leaf window can do. -/

namespace Sys2Proof.Machine

/-! ## Decoding a program -/

/-- The selected instruction is a sound instruction with the code and the operands it was made of. -/
theorem soundInstr_sound (code : Byte) (op : SoundOps) : (soundInstr code op).sound = some (code, op) := by
  simp only [soundInstr]
  split_ifs <;> simp_all [Instr.sound]

/-- A program decodes to sound instructions only (R210). -/
theorem decode_program_sound {bs rest : List Byte} {i : Instr} (h : decode .program bs = .ok i rest) :
    ∃ code op, i = soundInstr code op := by
  simp only [decode] at h
  unfold decodeSound at h
  split at h
  · injection h with h _
    exact ⟨_, _, h.symm⟩
  · cases h

/-- Twelve bytes are always an instruction (R93). -/
theorem decode_program_ok {bs : List Byte} (h : 12 ≤ bs.length) : ∃ i rest, decode .program bs = .ok i rest := by
  match bs, h with
  | b0 :: b1 :: b2 :: b3 :: b4 :: b5 :: b6 :: b7 :: b8 :: b9 :: b10 :: b11 :: rest, _ => exact ⟨_, _, rfl⟩

/-! ## The meanings -/

/-- A sound instruction is the common template with its code (R134). -/
theorem exec_sound {i : Instr} {code : Byte} {op : SoundOps} (h : i.sound = some (code, op)) (s : State) :
    exec i s = playSound code op s := by
  cases i <;> simp_all [Instr.sound, exec, execTriangle, execSawtooth, execSine, execNoise, execSquare10,
    execSquare20, execSquare30, execSquare40, execSquare50, execSilence]

/-- RENDER runs the meanings `exec` runs. -/
theorem execInProgram_sound {i : Instr} {code : Byte} {op : SoundOps} (h : i.sound = some (code, op)) (s : State) :
    execInProgram i s = playSound code op s := by
  cases i <;> simp_all [Instr.sound, execInProgram, execTriangle, execSawtooth, execSine, execNoise, execSquare10,
    execSquare20, execSquare30, execSquare40, execSquare50, execSilence]

/-! ## A predicate kept by everything a voice does -/

/-- `P` is kept by each of the updates a voice's run is made of. -/
structure KeptByVoices (P : State → Prop) : Prop where
  /-- by entering an instruction, -/
  enter  : ∀ code op s, P s → P (enterInstr code op s)
  /-- by a sample, -/
  sample : ∀ s, P s → P (sampleStep s)
  /-- by moving the cursor, -/
  cursor : ∀ s, P s →
    P (setVoice s s.srvVoice { getVoice s s.srvVoice with cur := (getVoice s s.srvVoice).cur + 1 })
  /-- and by retiring. -/
  retire : ∀ s, P s → P (retireVoice s)

variable {P : State → Prop}

theorem runSamples_keeps (h : ∀ s, P s → P (sampleStep s)) (n : Nat) {s : State} (hs : P s) :
    P (runSamples n s) := by
  induction n generalizing s with
  | zero => exact hs
  | succ n ih =>
    simp only [runSamples]
    split
    · exact h s hs
    · exact ih (h s hs)

theorem endInstr_keeps (h : KeptByVoices P) {s : State} (hs : P s) : P (endInstr s) := by
  simp only [endInstr]
  split
  · exact h.retire _ (h.cursor s hs)
  · exact h.cursor s hs

theorem playOn_keeps (h : KeptByVoices P) {s : State} (hs : P s) : P (playOn s) := by
  simp only [playOn]
  split
  · exact endInstr_keeps h (runSamples_keeps h.sample _ hs)
  · exact runSamples_keeps h.sample _ hs

theorem playSound_keeps (h : KeptByVoices P) {code : Byte} {op : SoundOps} {s t : State} (hs : P s)
    (ht : playSound code op s = .next t) : P t := by
  injection ht with ht
  exact ht ▸ playOn_keeps h (h.enter code op s hs)

/-- What a fetch answers (R63). -/
theorem fetchBytes_next {s : State} {bs : List Byte} (h : fetchBytes s = .next bs) :
    ∃ n e, (getVoice s s.srvVoice).req = some n ∧ findEntry s.queue n = some e ∧
      e.base + 12 * (getVoice s s.srvVoice).cur + 12 ≤ s.cfg.memSize ∧
      bs = memReadBytes s.mem (e.base + 12 * (getVoice s s.srvVoice).cur) 12 := by
  unfold fetchBytes at h
  split at h
  · cases h
  · rename_i e he
    by_cases hle : e.base + instrSize * (getVoice s s.srvVoice).cur + instrSize ≤ s.cfg.memSize
    · rw [if_pos hle] at h
      injection h with h
      obtain ⟨n, hn, hf⟩ := Option.bind_eq_some_iff.1 he
      exact ⟨n, e, hn, hf, hle, h.symm⟩
    · rw [if_neg hle] at h
      cases h

/-- What fetching and running answers: the template of some code and operands, decoded from the bytes. -/
theorem fetchAndRun_next {s t : State} (h : fetchAndRun s = .next t) :
    ∃ bs code op rest, fetchBytes s = .next bs ∧ decode .program bs = .ok (soundInstr code op) rest ∧
      t = playOn (enterInstr code op s) := by
  obtain ⟨bs, hb, h⟩ := andThen_eq_next.1 h
  split at h
  · rename_i i rest hd
    obtain ⟨code, op, rfl⟩ := decode_program_sound hd
    rw [execInProgram_sound (soundInstr_sound code op)] at h
    injection h with h
    exact ⟨bs, code, op, rest, hb, hd, h.symm⟩
  · cases h

theorem fetchAndRun_keeps (h : KeptByVoices P) {s t : State} (hs : P s) (ht : fetchAndRun s = .next t) : P t := by
  obtain ⟨_, code, op, _, _, _, rfl⟩ := fetchAndRun_next ht
  exact playOn_keeps h (h.enter code op s hs)

theorem runOn_keeps (h : KeptByVoices P) {fuel : Nat} {s t : State} (hs : P s) (ht : runOn fuel s = .next t) :
    P t := by
  induction fuel generalizing s with
  | zero => injection ht with ht; exact ht ▸ hs
  | succ fuel ih =>
    simp only [runOn] at ht
    split at ht
    · obtain ⟨s', h1, h2⟩ := andThen_eq_next.1 ht
      exact ih (fetchAndRun_keeps h hs h1) h2
    · injection ht with ht; exact ht ▸ hs

/-- What a voice's run answers: one of its three beginnings (R154, R155, R158), and then the instructions that
follow. -/
theorem runVoice_next {k : Nat} {s t : State} (h : runVoice k s = .next t) :
    ((getVoice s k).cv = true ∧ runOn (s.acc.length + 1) (playOn { s with srvVoice := k, srvPos := 0 }) = .next t) ∨
    ((getVoice s k).cv = false ∧ (getVoice s k).endIdx ≤ (getVoice s k).cur ∧
      t = retireVoice { s with srvVoice := k, srvPos := 0 }) ∨
    ((getVoice s k).cv = false ∧ (getVoice s k).cur < (getVoice s k).endIdx ∧
      ∃ s1, fetchAndRun { s with srvVoice := k, srvPos := 0 } = .next s1 ∧
        runOn (s.acc.length + 1) s1 = .next t) := by
  simp only [runVoice] at h
  split at h
  · rename_i hc
    exact .inl ⟨hc, h⟩
  · rename_i hc
    have hc : (getVoice s k).cv = false := by simpa using hc
    split at h
    · rename_i he
      injection h with h
      exact .inr (.inl ⟨hc, by simpa [exhausted] using he, h.symm⟩)
    · rename_i he
      obtain ⟨s1, h1, h2⟩ := andThen_eq_next.1 h
      exact .inr (.inr ⟨hc, by simpa [exhausted] using he, s1, h1, h2⟩)

theorem runVoice_keeps (h : KeptByVoices P) (hk : ∀ s k, P s → P { s with srvVoice := k, srvPos := 0 }) {k : Nat}
    {s t : State} (hs : P s) (ht : runVoice k s = .next t) : P t := by
  rcases runVoice_next ht with ⟨_, h1⟩ | ⟨_, _, rfl⟩ | ⟨_, _, s1, h1, h2⟩
  · exact runOn_keeps h (playOn_keeps h (hk s k hs)) h1
  · exact h.retire _ (hk s k hs)
  · exact runOn_keeps h (fetchAndRun_keeps h (hk s k hs) h1) h2

theorem runVoices_keeps (h : KeptByVoices P) (hk : ∀ s k, P s → P { s with srvVoice := k, srvPos := 0 })
    {ks : List Nat} {s t : State} (hs : P s) (ht : runVoices ks s = .next t) : P t := by
  induction ks generalizing s with
  | nil => injection ht with ht; exact ht ▸ hs
  | cons k ks ih =>
    obtain ⟨s', h1, h2⟩ := andThen_eq_next.1 ht
    refine ih ?_ h2
    split at h1
    · exact runVoice_keeps h hk hs h1
    · injection h1 with h1; exact h1 ▸ hs

/-- What the voices of a leaf window leave alone: everything but the voices, G.NOISE, ACC, the STATE of entries and the
model's own serving fields (R134, R210). -/
theorem runVoices_frame {ks : List Nat} {s t : State} (h : runVoices ks s = .next t) :
    t.cfg = s.cfg ∧ t.curr = s.curr ∧ t.fault = s.fault ∧ t.active = s.active ∧ t.arg0 = s.arg0 ∧
    t.arg1 = s.arg1 ∧ t.arg2 = s.arg2 ∧ t.pins = s.pins ∧ t.mem = s.mem ∧ t.nextName = s.nextName ∧
    t.pending = s.pending ∧ t.busOut = s.busOut ∧ t.acc.length = s.acc.length ∧
    t.voices.length = s.voices.length ∧ t.queue.map Entry.name = s.queue.map Entry.name := by
  refine runVoices_keeps (P := fun t => t.cfg = s.cfg ∧ t.curr = s.curr ∧ t.fault = s.fault ∧
    t.active = s.active ∧ t.arg0 = s.arg0 ∧ t.arg1 = s.arg1 ∧ t.arg2 = s.arg2 ∧ t.pins = s.pins ∧
    t.mem = s.mem ∧ t.nextName = s.nextName ∧ t.pending = s.pending ∧ t.busOut = s.busOut ∧
    t.acc.length = s.acc.length ∧ t.voices.length = s.voices.length ∧
    t.queue.map Entry.name = s.queue.map Entry.name) ⟨?_, ?_, ?_, ?_⟩ (fun _ _ h => h) ?_ h
  all_goals first
    | (intro code op u hu; simpa using hu)
    | (intro u hu; simpa using hu)
    | simp

/-- What a leaf window answers (R170). -/
theorem leafWindow_next {dst n : Nat} {s : State} {r : State × Bool} (h : leafWindow dst n s = .next r) :
    ∃ u, runVoices (List.range s.cfg.maxVoices) (openWindow n s) = .next u ∧ r = (closeWindow dst u, activeNow s) := by
  obtain ⟨u, h1, h2⟩ := andThen_eq_next.1 h
  injection h2 with h2
  exact ⟨u, h1, h2.symm⟩

end Sys2Proof.Machine
end

