-- ==== Sys2Proof/Laws/Commands.lean ====
section
/-! SUPPORT. What the commands and the host's moves can do: one inversion lemma each. -/

namespace Sys2Proof.Machine

/-- PLAY answers: ignored while dead, the fatal fault, or the entry queued and the sweep done (R211, R220, R240). -/
theorem playCommand_next {d : Int} {b l : Nat} {s t : State} (h : playCommand d b l s = .next t) :
    (s.fault = true ∧ t = s) ∨
    (s.fault = false ∧ playRefusal d b l s = none ∧ l % 12 ≠ 0 ∧ t = raiseFatal .misalignedLength s) ∨
    (s.fault = false ∧ playRefusal d b l s = none ∧ l % 12 = 0 ∧ t = sweep (enqueue d b l s)) := by
  unfold playCommand at h
  split at h
  · rename_i hf
    injection h with h
    exact .inl ⟨hf, h.symm⟩
  · rename_i hf
    have hf : s.fault = false := by simpa using hf
    split at h
    · cases h
    · rename_i hr
      split at h
      · rename_i hl
        injection h with h
        exact .inr (.inl ⟨hf, hr, hl, h.symm⟩)
      · rename_i hl
        injection h with h
        exact .inr (.inr ⟨hf, hr, by simpa [instrSize] using hl, h.symm⟩)

/-- STOP answers: ignored while dead, or the queue and the bindings cleared (R214, R220). -/
theorem stopCommand_next {s t : State} (h : stopCommand s = .next t) :
    (s.fault = true ∧ t = s) ∨
    (s.fault = false ∧ t = { s with
      pins := s.pins ++ unpins s.queue, queue := [], voices := s.voices.map (fun v => { v with req := none }) }) := by
  unfold stopCommand at h
  split at h
  · rename_i hf
    injection h with h
    exact .inl ⟨hf, h.symm⟩
  · rename_i hf
    injection h with h
    exact .inr ⟨by simpa using hf, h.symm⟩

/-- RENDER answers: ignored while dead, the n = 0 result, or a rendered window (R215, R220). -/
theorem renderCommand_next {dst n : Nat} {s t : State} (h : renderCommand dst n s = .next t) :
    (s.fault = true ∧ t = s) ∨
    (s.fault = false ∧ renderRefusal dst n s = none ∧ n = 0 ∧ t = { s with active := activeNow s }) ∨
    (s.fault = false ∧ renderRefusal dst n s = none ∧ 1 ≤ n ∧
      ∃ r, render1 n dst n s = .next r ∧ t = { r.1 with active := r.2 }) := by
  unfold renderCommand at h
  split at h
  · rename_i hf
    injection h with h
    exact .inl ⟨hf, h.symm⟩
  · rename_i hf
    have hf : s.fault = false := by simpa using hf
    split at h
    · cases h
    · rename_i hr
      split at h
      · rename_i hn
        injection h with h
        exact .inr (.inl ⟨hf, hr, hn, h.symm⟩)
      · rename_i hn
        obtain ⟨r, h1, h2⟩ := andThen_eq_next.1 h
        injection h2 with h2
        exact .inr (.inr ⟨hf, hr, Nat.one_le_iff_ne_zero.2 hn, r, h1, h2.symm⟩)

/-- What RENDER's refusal conditions rule out when it is not refused (R69, R251). -/
theorem renderRefusal_none {dst n : Nat} {s : State} (h : renderRefusal dst n s = none) :
    dst < s.cfg.memSize ∧ dst + 2 * n ≤ s.cfg.memSize ∧ overlapsDevice s.cfg dst (2 * n) = false ∧
    overlapsPinned s.queue dst (2 * n) = false ∧ s.curr.toNat + n < 2 ^ 64 := by
  unfold renderRefusal at h
  split at h
  · cases h
  · rename_i h1
    split at h
    · cases h
    · rename_i h2
      split at h
      · cases h
      · rename_i h3
        split at h
        · cases h
        · rename_i h4
          push Not at h1
          exact ⟨h1.1, h1.2, by simpa using h2, by simpa using h3, by omega⟩

/-- What PLAY's refusal conditions rule out when it is not refused (R69, R211, R251). -/
theorem playRefusal_none {d : Int} {b l : Nat} {s : State} (h : playRefusal d b l s = none) :
    b < s.cfg.memSize ∧ l < s.cfg.memSize ∧ b + l ≤ s.cfg.memSize ∧ overlapsDevice s.cfg b l = false ∧
    playStart s d < 2 ^ 64 ∧ queueFull s = false := by
  unfold playRefusal at h
  split at h
  · cases h
  · rename_i h1
    split at h
    · cases h
    · rename_i h2
      split at h
      · cases h
      · rename_i h3
        split at h
        · cases h
        · rename_i h4
          push Not at h1
          exact ⟨h1.1, h1.2.1, h1.2.2, by simpa using h2, by omega, by simpa using h4⟩

/-- What scheduling steps and leaf windows keep, a window keeps, split or not (R216). -/
theorem render1_keeps {P : State → Prop} (hs : ∀ s, P s → P (schedule s).1)
    (hl : ∀ dst n s r, P s → leafWindow dst n s = .next r → P r.1) {fuel dst n : Nat} {s : State}
    {r : State × Bool} (h : P s) (hr : render1 fuel dst n s = .next r) : P r.1 := by
  induction fuel generalizing dst n s r with
  | zero => injection hr with hr; exact hr ▸ h
  | succ fuel ih =>
    simp only [render1] at hr
    have h1 := hs s h
    split at hr
    · rename_i s1 t heq
      rw [heq] at h1
      split at hr
      · obtain ⟨a, ha, hr⟩ := andThen_eq_next.1 hr
        obtain ⟨b, hb, hr⟩ := andThen_eq_next.1 hr
        injection hr with hr
        subst hr
        exact ih (r := b) (ih h1 ha) hb
      · exact hl _ _ _ _ h1 hr
    · rename_i s1 heq
      rw [heq] at h1
      exact hl _ _ _ _ h1 hr

/-- What a bus write to a register does when it answers: a CMD word run, an argument written, or nothing (R45, R47). -/
theorem writeReg_next {r : HostReg} {w : Word} {s t : State} (h : writeReg r w s = .next t) :
    (r = .cmd ∧ exec (decodeCmdWord w) s = .next t) ∨ t = { s with arg0 := w } ∨ t = { s with arg1 := w } ∨
    t = { s with arg2 := w } ∨ t = s := by
  cases r with
  | cmd => exact .inl ⟨rfl, h⟩
  | arg0 => injection h with h; exact .inr (.inl h.symm)
  | arg1 => injection h with h; exact .inr (.inr (.inl h.symm))
  | arg2 => injection h with h; exact .inr (.inr (.inr (.inl h.symm)))
  | status => injection h with h; exact .inr (.inr (.inr (.inr h.symm)))
  | clockLo => injection h with h; exact .inr (.inr (.inr (.inr h.symm)))
  | clockHi => injection h with h; exact .inr (.inr (.inr (.inr h.symm)))
  | cfgRate => injection h with h; exact .inr (.inr (.inr (.inr h.symm)))
  | cfgMisc => injection h with h; exact .inr (.inr (.inr (.inr h.symm)))

/-- The four command words, as instructions. -/
theorem decodeCmdWord_cases (w : Word) :
    decodeCmdWord w = .play ∨ decodeCmdWord w = .stop ∨ decodeCmdWord w = .render ∨
    ∃ v, decodeCmdWord w = .cmdReserved v := by
  simp only [decodeCmdWord, bytesOfWord, decode, decodeCommand, commandInstr]
  split_ifs <;> simp

/-- The state changes a command can make, whether it comes as a CMD word or on abstract operands. -/
inductive CommandEffect (s t : State) : Prop where
  /-- Nothing: ignored while dead, or reserved (R99, R220). -/
  | nothing (h : t = s)
  /-- The fatal fault (R240). -/
  | fatal (hf : s.fault = false) (d : Int) (b l : Nat) (hr : playRefusal d b l s = none) (hl : l % 12 ≠ 0)
      (h : t = raiseFatal .misalignedLength s)
  /-- An accepted PLAY (R211). -/
  | play (hf : s.fault = false) (d : Int) (b l : Nat) (hr : playRefusal d b l s = none) (hl : l % 12 = 0)
      (h : t = sweep (enqueue d b l s))
  /-- STOP (R214). -/
  | stop (hf : s.fault = false) (h : t = { s with
      pins := s.pins ++ unpins s.queue, queue := [], voices := s.voices.map (fun v => { v with req := none }) })
  /-- RENDER with n = 0 (R215). -/
  | renderNone (hf : s.fault = false) (h : t = { s with active := activeNow s })
  /-- RENDER with n at least 1 (R215). -/
  | render (hf : s.fault = false) (dst n : Nat) (hr : renderRefusal dst n s = none) (hn : 1 ≤ n) (r : State × Bool)
      (h1 : render1 n dst n s = .next r) (h : t = { r.1 with active := r.2 })

theorem playCommand_effect {d : Int} {b l : Nat} {s t : State} (h : playCommand d b l s = .next t) :
    CommandEffect s t := by
  rcases playCommand_next h with ⟨_, h⟩ | ⟨h1, h2, h3, h4⟩ | ⟨h1, h2, h3, h4⟩
  · exact .nothing h
  · exact .fatal h1 d b l h2 h3 h4
  · exact .play h1 d b l h2 h3 h4

theorem stopCommand_effect {s t : State} (h : stopCommand s = .next t) : CommandEffect s t := by
  rcases stopCommand_next h with ⟨_, h⟩ | ⟨h1, h2⟩
  · exact .nothing h
  · exact .stop h1 h2

theorem renderCommand_effect {dst n : Nat} {s t : State} (h : renderCommand dst n s = .next t) :
    CommandEffect s t := by
  rcases renderCommand_next h with ⟨_, h⟩ | ⟨h1, _, _, h2⟩ | ⟨h1, h2, h3, r, h4, h5⟩
  · exact .nothing h
  · exact .renderNone h1 h2
  · exact .render h1 dst n h2 h3 r h4 h5

theorem exec_command_effect {w : Word} {s t : State} (h : exec (decodeCmdWord w) s = .next t) :
    CommandEffect s t := by
  rcases decodeCmdWord_cases w with hw | hw | hw | ⟨v, hw⟩ <;> rw [hw] at h
  · exact playCommand_effect h
  · exact stopCommand_effect h
  · exact renderCommand_effect h
  · injection h with h; exact .nothing h.symm

theorem runCommand_effect {c : Command} {s t : State} (h : runCommand c s = .next t) : CommandEffect s t := by
  cases c with
  | play d b l => exact playCommand_effect h
  | stop => exact stopCommand_effect h
  | render dst n => exact renderCommand_effect h

/-- The state changes a host move can make. -/
inductive MoveEffect (a : HostAction) (s t : State) : Prop where
  /-- A bus read: only the read data (R44). -/
  | read (bs : List Byte) (h : t = { s with busOut := bs })
  /-- An argument register written (R45). -/
  | arg (w : Word) (h : t = { s with arg0 := w } ∨ t = { s with arg1 := w } ∨ t = { s with arg2 := w })
  /-- Host memory written, no pinned byte among it (R67). -/
  | store (addr : Nat) (bs : List Byte) (hm : addr + bs.length ≤ s.cfg.memSize)
      (hp : overlapsPinned s.queue addr bs.length = false) (h : t = { s with mem := memWriteBytes s.mem addr bs })
  /-- A command. -/
  | command (h : CommandEffect s t)
  /-- Reset (R270). -/
  | reset (ha : a = .reset) (h : t = engineReset s)

/-- What a host move answers. -/
theorem perform_effect {a : HostAction} {s t : State} (h : perform a s = .next t) : MoveEffect a s t := by
  cases a with
  | reset => injection h with h; exact .reset rfl h.symm
  | command c => exact .command (runCommand_effect h)
  | busRead addr width =>
    simp only [perform, busRead] at h
    split at h
    · cases h
    · split at h
      · obtain ⟨r, _, h2⟩ := andThen_eq_next.1 h
        injection h2 with h2
        exact .read _ h2.symm
      · split at h
        · cases h
        · injection h with h
          exact .read _ h.symm
  | busWrite addr bytes =>
    simp only [perform, busWrite] at h
    split at h
    · cases h
    · rename_i hm
      split at h
      · obtain ⟨r, _, h2⟩ := andThen_eq_next.1 h
        rcases writeReg_next h2 with ⟨_, h3⟩ | h3 | h3 | h3 | h3
        · exact .command (exec_command_effect h3)
        · exact .arg _ (.inl h3)
        · exact .arg _ (.inr (.inl h3))
        · exact .arg _ (.inr (.inr h3))
        · exact .command (.nothing h3)
      · split at h
        · cases h
        · split at h
          · cases h
          · rename_i hp
            injection h with h
            exact .store addr bytes (by omega) (by simpa using hp) h.symm

/-- What a step answers: it idles, or makes the next pending move. -/
theorem step_effect {s t : State} (h : step s = .next t) :
    s.cfg.Legal ∧ ((s.pending = [] ∧ t = s) ∨
      ∃ a rest, s.pending = a :: rest ∧ MoveEffect a { s with pending := rest } t) := by
  simp only [step, hostStep] at h
  split at h
  · rename_i hl
    refine ⟨hl, ?_⟩
    split at h
    · rename_i hp
      injection h with h
      exact .inl ⟨hp, h.symm⟩
    · rename_i a rest hp
      exact .inr ⟨a, rest, hp, perform_effect h⟩
  · cases h

end Sys2Proof.Machine
end

