-- ==== Sys2Proof/Laws/Memory.lean ====
section
/-! SUPPORT. The laws of the host memory: reading after writing, and the canonical form every operation keeps. -/

namespace Sys2Proof.Machine

/-- The addresses of a canonical memory rise: everything after an entry lies above it. -/
theorem Memory.wf_cons {k : Nat} {b : Byte} {m : Memory} (h : Memory.wf ((k, b) :: m)) :
    (∀ c ∈ m, k < c.1) ∧ b ≠ unlistedByte ∧ Memory.wf m := by
  obtain ⟨hs, hn⟩ := h
  simp only [List.map_cons, List.pairwise_cons, List.mem_map, forall_exists_index, and_imp,
    forall_apply_eq_imp_iff₂] at hs
  exact ⟨hs.1, hn (k, b) (by simp), hs.2, fun c hc => hn c (by simp [hc])⟩

theorem Memory.wf_nil : Memory.wf [] := by simp [Memory.wf]

/-- A canonical memory from its parts. -/
theorem Memory.wf_of_cons {k : Nat} {b : Byte} {m : Memory} (hk : ∀ c ∈ m, k < c.1) (hb : b ≠ unlistedByte)
    (hm : Memory.wf m) : Memory.wf ((k, b) :: m) := by
  refine ⟨?_, ?_⟩
  · simp only [List.map_cons, List.pairwise_cons, List.mem_map, forall_exists_index, and_imp,
      forall_apply_eq_imp_iff₂]
    exact ⟨hk, hm.1⟩
  · intro c hc
    rcases List.mem_cons.1 hc with rfl | hc
    · exact hb
    · exact hm.2 c hc

/-- An address below every listed one reads as unlisted. -/
theorem memRead_unlisted {m : Memory} {a : Nat} (h : ∀ c ∈ m, a < c.1) : memRead m a = unlistedByte := by
  induction m with
  | nil => rfl
  | cons c m ih =>
    obtain ⟨k, b⟩ := c
    have hk : a < k := h (k, b) (by simp)
    simp only [memRead, if_neg (show k ≠ a by omega)]
    exact ih fun c hc => h c (by simp [hc])

/-- A write changes the byte at its address and no other (R62). -/
theorem memRead_memWrite {m : Memory} (h : Memory.wf m) (a : Nat) (b : Byte) (x : Nat) :
    memRead (memWrite m a b) x = if x = a then b else memRead m x := by
  induction m with
  | nil =>
    by_cases hb : b = unlistedByte <;> by_cases hx : a = x <;>
      simp [memWrite, memRead, hb, hx, eq_comm (a := x)]
  | cons c m ih =>
    obtain ⟨k, c⟩ := c
    obtain ⟨hk, hc, hm⟩ := Memory.wf_cons h
    have hkx : x ≤ k → x ≠ k → memRead m x = unlistedByte := fun h1 h2 =>
      memRead_unlisted fun c hc => by have := hk c hc; omega
    simp only [memWrite]
    split
    · rename_i hak
      split
      · rename_i hb
        by_cases hx : x = a
        · subst hx
          simp [memRead, show k ≠ x by omega, hkx (by omega) (by omega), hb]
        · simp [hx]
      · by_cases hx : x = a
        · subst hx; simp [memRead]
        · simp [memRead, hx, Ne.symm hx]
    · split
      · rename_i _ hak
        subst hak
        split
        · rename_i hb
          by_cases hx : x = a
          · subst hx
            simp [hb, memRead_unlisted hk]
          · simp [memRead, hx, Ne.symm hx]
        · by_cases hx : x = a
          · subst hx; simp [memRead]
          · simp [memRead, hx, Ne.symm hx]
      · by_cases hx : k = x
        · subst hx
          simp [memRead, show k ≠ a by omega]
        · simp [memRead, hx, ih hm]

/-- The entries of a written memory are the written one and old ones. -/
theorem mem_memWrite {m : Memory} {a : Nat} {b : Byte} {c : Host.Cell} (h : c ∈ memWrite m a b) :
    c = (a, b) ∨ c ∈ m := by
  induction m with
  | nil =>
    simp only [memWrite] at h
    split at h <;> simp_all
  | cons d m ih =>
    obtain ⟨k, d⟩ := d
    simp only [memWrite] at h
    split at h
    · split at h <;> simp_all
    · split at h
      · split at h <;> simp_all
        rcases h with h | h <;> simp [h]
      · rcases List.mem_cons.1 h with h | h
        · simp [h]
        · rcases ih h with h | h <;> simp [h]

/-- A write keeps the canonical form. -/
theorem memWrite_wf {m : Memory} (h : Memory.wf m) (a : Nat) (b : Byte) : Memory.wf (memWrite m a b) := by
  induction m with
  | nil =>
    simp only [memWrite]
    split
    · exact Memory.wf_nil
    · rename_i hb
      exact Memory.wf_of_cons (by simp) hb Memory.wf_nil
  | cons c m ih =>
    obtain ⟨k, c⟩ := c
    obtain ⟨hk, hc, hm⟩ := Memory.wf_cons h
    simp only [memWrite]
    split
    · rename_i hak
      split
      · exact h
      · rename_i hb
        refine Memory.wf_of_cons (fun d hd => ?_) hb h
        rcases List.mem_cons.1 hd with rfl | hd
        · exact hak
        · exact hak.trans (hk d hd)
    · split
      · rename_i hak
        split
        · exact hm
        · rename_i hb
          exact Memory.wf_of_cons (fun d hd => hak ▸ hk d hd) hb hm
      · refine Memory.wf_of_cons (fun d hd => ?_) hc (ih hm)
        rcases mem_memWrite hd with rfl | hd
        · show k < a
          omega
        · exact hk d hd

theorem memWriteBytes_wf {m : Memory} (h : Memory.wf m) (a : Nat) (bs : List Byte) :
    Memory.wf (memWriteBytes m a bs) := by
  induction bs generalizing m a with
  | nil => exact h
  | cons b bs ih => exact ih (memWrite_wf h a b) (a + 1)

/-- Bytes written from `a` on are read back, every other address reads as before. -/
theorem memRead_memWriteBytes {m : Memory} (h : Memory.wf m) (a : Nat) (bs : List Byte) (x : Nat) :
    memRead (memWriteBytes m a bs) x =
      if a ≤ x ∧ x < a + bs.length then bs.getD (x - a) unlistedByte else memRead m x := by
  induction bs generalizing m a with
  | nil => simp [memWriteBytes, show ¬(a ≤ x ∧ x < a) by omega]
  | cons b bs ih =>
    rw [memWriteBytes, ih (memWrite_wf h a b) (a + 1), memRead_memWrite h]
    by_cases hx : x = a
    · subst hx
      simp
    · by_cases h1 : a + 1 ≤ x ∧ x < a + 1 + bs.length
      · rw [if_pos h1, if_pos (by simp only [List.length_cons]; omega)]
        obtain ⟨k, hk⟩ : ∃ k, x - a = k + 1 := ⟨x - a - 1, by omega⟩
        simp [hk, show x - (a + 1) = k by omega]
      · rw [if_neg h1, if_neg hx, if_neg (by simp only [List.length_cons]; omega)]

theorem mem_memWriteBytes {m : Memory} {a : Nat} {bs : List Byte} {c : Host.Cell}
    (h : c ∈ memWriteBytes m a bs) : (a ≤ c.1 ∧ c.1 < a + bs.length) ∨ c ∈ m := by
  induction bs generalizing m a with
  | nil => exact .inr h
  | cons b bs ih =>
    rcases ih h with h | h
    · left; simp only [List.length_cons]; omega
    · rcases mem_memWrite h with rfl | h
      · left; simp
      · exact .inr h

@[simp] theorem bytesOfHalf_length (h : Half) : (bytesOfHalf h).length = 2 := rfl

@[simp] theorem bytesOfWord_length (w : Word) : (bytesOfWord w).length = 4 := rfl

@[simp] theorem memReadBytes_length (m : Memory) (a n : Nat) : (memReadBytes m a n).length = n := by
  induction n generalizing a with
  | zero => rfl
  | succ n ih => simp [memReadBytes, ih]

theorem memWriteHalf_wf {m : Memory} (h : Memory.wf m) (a : Nat) (v : Int) : Memory.wf (memWriteHalf m a v) :=
  memWriteBytes_wf h _ _

theorem storeSamples_wf (c : Config) {m : Memory} (h : Memory.wf m) (dst : Nat) (xs : List Int) :
    Memory.wf (storeSamples c dst xs m) := by
  induction xs generalizing m dst with
  | nil => exact h
  | cons x xs ih => exact ih (memWriteHalf_wf h dst _) (dst + 2)

/-- The stores of a window touch only its bytes (R65). -/
theorem memRead_storeSamples_outside (c : Config) {m : Memory} (h : Memory.wf m) (dst : Nat) (xs : List Int)
    {a : Nat} (ha : a < dst ∨ dst + 2 * xs.length ≤ a) : memRead (storeSamples c dst xs m) a = memRead m a := by
  induction xs generalizing m dst with
  | nil => rfl
  | cons x xs ih =>
    simp only [List.length_cons] at ha
    rw [storeSamples, ih (memWriteHalf_wf h dst _) (dst + 2) (by omega), memWriteHalf,
      memRead_memWriteBytes h, if_neg (by simp only [bytesOfHalf_length]; omega)]

theorem mem_storeSamples (c : Config) {m : Memory} {dst : Nat} {xs : List Int} {d : Host.Cell}
    (h : d ∈ storeSamples c dst xs m) : (dst ≤ d.1 ∧ d.1 < dst + 2 * xs.length) ∨ d ∈ m := by
  induction xs generalizing m dst with
  | nil => exact .inr h
  | cons x xs ih =>
    rcases ih h with h | h
    · left; simp only [List.length_cons]; omega
    · rcases mem_memWriteBytes h with h | h
      · left; simp only [bytesOfHalf_length, List.length_cons] at h ⊢; omega
      · exact .inr h

/-- Reading stays the same where two memories agree on the bytes read. -/
theorem memReadBytes_congr {m m' : Memory} {a n : Nat} (h : ∀ x, a ≤ x → x < a + n → memRead m x = memRead m' x) :
    memReadBytes m a n = memReadBytes m' a n := by
  induction n generalizing a with
  | zero => rfl
  | succ n ih =>
    simp only [memReadBytes]
    rw [h a (Nat.le_refl _) (by omega), ih fun x h1 h2 => h x (by omega) (by omega)]

end Sys2Proof.Machine
end

