-- ==== Sys2Proof/Laws/PerInstr.lean ====
section
/-! SUPPORT. Families of lemmas with one lemma per instruction. -/

namespace Sys2Proof.Laws

/-- The length of every encoding is that of its space (R44, R97). -/
def EncodeLength.Statement (i : Instr) : Prop :=
  (encode i).length = match i.space with | .program => 12 | .command => 4

theorem EncodeLength.triangle (op : SoundOps) : EncodeLength.Statement (.triangle op) := rfl
theorem EncodeLength.sawtooth (op : SoundOps) : EncodeLength.Statement (.sawtooth op) := rfl
theorem EncodeLength.sine (op : SoundOps) : EncodeLength.Statement (.sine op) := rfl
theorem EncodeLength.noise (op : SoundOps) : EncodeLength.Statement (.noise op) := rfl
theorem EncodeLength.square10 (op : SoundOps) : EncodeLength.Statement (.square10 op) := rfl
theorem EncodeLength.square20 (op : SoundOps) : EncodeLength.Statement (.square20 op) := rfl
theorem EncodeLength.square30 (op : SoundOps) : EncodeLength.Statement (.square30 op) := rfl
theorem EncodeLength.square40 (op : SoundOps) : EncodeLength.Statement (.square40 op) := rfl
theorem EncodeLength.square50 (op : SoundOps) : EncodeLength.Statement (.square50 op) := rfl
theorem EncodeLength.silence (code : Byte) (op : SoundOps) : EncodeLength.Statement (.silence code op) := rfl
theorem EncodeLength.play : EncodeLength.Statement .play := rfl
theorem EncodeLength.stop : EncodeLength.Statement .stop := rfl
theorem EncodeLength.render : EncodeLength.Statement .render := rfl
theorem EncodeLength.cmdReserved (w : Word) : EncodeLength.Statement (.cmdReserved w) := rfl

end Sys2Proof.Laws
end

