-- ==== Sys2Proof/Tests/Slice0.lean ====
section
/-! SUPPORT. The author's own tests: ill-formed terms, words written out from the spec's encodings, one-step tests whose
expected values are the spec's own (40_waveforms.md, 41_envelope_phase.md section 6, 95_test_vectors.md), and for every
statement with hypotheses a witness that meets them. -/

namespace Sys2Proof.Tests

-- One theorem after another: each waiting `decide +kernel` would hold a thread of its own.
set_option Elab.async false

open Sys2Proof Sys2Proof.Machine

/-! ## Well-formedness -/

theorem test_wf_silence_named_code :
    [1#8, 2#8, 3#8, 5#8, 11#8, 12#8, 13#8, 14#8, 15#8].all
      (fun c => !WellFormed (.silence c ⟨0#8, 0#16, 0#16, 0#16, 0#16, 0#16⟩)) = true := by decide

theorem test_wf_silence_other_codes :
    [0#8, 4#8, 6#8, 10#8, 16#8, 255#8].all
      (fun c => WellFormed (.silence c ⟨0#8, 0#16, 0#16, 0#16, 0#16, 0#16⟩)) = true := by decide

theorem test_wf_reserved_named_command :
    [1#32, 2#32, 3#32].all (fun w => !WellFormed (.cmdReserved w)) = true := by decide

theorem test_wf_reserved_other_words :
    [0#32, 4#32, 0x80000001#32].all (fun w => WellFormed (.cmdReserved w)) = true := by decide

/-! ## Decoding: bytes written out from R90, R92, R98, R100 and V1 -/

/-- The fields after byte 0 of `f 440, d 10, sv 1023, ev 0, ef 440` (R100). -/
def ops440 : SoundOps := ⟨0x00#8, 440#16, 10#16, 1023#16, 0#16, 440#16⟩

/-- A waveform code before the bytes R100 writes out for `ops440`. -/
def bytes440 (code : Byte) : List Byte :=
  [code, 0x00#8, 0xB8#8, 0x01#8, 0x0A#8, 0x00#8, 0xFF#8, 0x03#8, 0x00#8, 0x00#8, 0xB8#8, 0x01#8]

theorem test_decode_triangle : decode .program (bytes440 1#8) = .ok (.triangle ops440) [] := by decide
theorem test_decode_sawtooth : decode .program (bytes440 2#8) = .ok (.sawtooth ops440) [] := by decide
theorem test_decode_sine : decode .program (bytes440 3#8) = .ok (.sine ops440) [] := by decide
theorem test_decode_noise : decode .program (bytes440 5#8) = .ok (.noise ops440) [] := by decide
theorem test_decode_square10 : decode .program (bytes440 11#8) = .ok (.square10 ops440) [] := by decide
theorem test_decode_square20 : decode .program (bytes440 12#8) = .ok (.square20 ops440) [] := by decide
theorem test_decode_square30 : decode .program (bytes440 13#8) = .ok (.square30 ops440) [] := by decide
theorem test_decode_square40 : decode .program (bytes440 14#8) = .ok (.square40 ops440) [] := by decide
theorem test_decode_square50 : decode .program (bytes440 15#8) = .ok (.square50 ops440) [] := by decide

theorem test_decode_silence_codes :
    [0#8, 4#8, 6#8, 7#8, 8#8, 9#8, 10#8, 16#8, 17#8, 18#8, 128#8, 255#8].all
      (fun c => decode .program (bytes440 c) == .ok (.silence c ops440) []) = true := by decide

/-- V1, third row: the raw fields, and what they clamp to. -/
theorem test_decode_v1_clamped :
    decode .program [0x03#8, 0xAA#8, 0x05#8, 0x00#8, 0x00#8, 0x00#8, 0xD0#8, 0x07#8, 0xF9#8, 0xFF#8, 0xFF#8, 0xFF#8] =
      .ok (.sine ⟨0xAA#8, 5#16, 0#16, 2000#16, 0xFFF9#16, 65535#16⟩) [] ∧
    clampOps ⟨0xAA#8, 5#16, 0#16, 2000#16, 0xFFF9#16, 65535#16⟩ = ⟨20, 20000, 1023, 0, 1⟩ := by decide

/-- V1, fourth row. -/
theorem test_clamp_v1_limits :
    clampOps ⟨0#8, 19#16, 60001#16, 0x8000#16, 0x7FFF#16, 20001#16⟩ = ⟨20, 20000, 0, 1023, 60000⟩ := by decide

theorem test_decode_play : decode .command [0x01#8, 0x00#8, 0x00#8, 0x00#8] = .ok .play [] := by decide
theorem test_decode_stop : decode .command [0x02#8, 0x00#8, 0x00#8, 0x00#8] = .ok .stop [] := by decide
theorem test_decode_render : decode .command [0x03#8, 0x00#8, 0x00#8, 0x00#8] = .ok .render [] := by decide

theorem test_decode_reserved :
    decode .command [0x00#8, 0x00#8, 0x00#8, 0x00#8] = .ok (.cmdReserved 0#32) [] ∧
    decode .command [0x04#8, 0x00#8, 0x00#8, 0x00#8] = .ok (.cmdReserved 4#32) [] ∧
    decode .command [0x01#8, 0x00#8, 0x00#8, 0x80#8] = .ok (.cmdReserved 0x80000001#32) [] := by decide

theorem test_decode_too_short :
    decode .program (List.replicate 11 0#8) = .reject .shortInstruction ∧
    decode .command [1#8, 0#8, 0#8] = .reject .shortCommand := by decide

theorem test_table_word :
    decodeTableWord 96 0x01B8000003FF000A01B80003 = some (.sine ops440) ∧ decodeTableWord 32 2 = some .stop ∧
    decodeTableWord 64 1 = none := by decide

theorem test_encode_sine : encode (.sine ops440) = bytes440 3#8 := by decide

/-! ## Small states -/

/-- Voice 0 bound to entry 7, at its first instruction of two, PHASE at position `idx`; the other four voices free. -/
def boundVoices (idx : Nat) : List Voice :=
  { Voice.reset with req := some 7, endIdx := 2, phase := BitVec.ofNat 32 (idx * 65536) } ::
    List.replicate 4 Voice.reset

/-- The window of `n` samples being rendered, at OUTPUT_BITS `bits`, voice 0 served. -/
def window (bits idx n : Nat) : State :=
  { State.resetWith { Config.default with outputBits := bits } with
    voices := boundVoices idx, queue := [⟨7, 0x1000, 24, .playing, 0#64⟩], nextName := 8
    acc := List.replicate n 0 }

/-- ACC after an outcome. -/
def accOf : Host.Outcome State Fault Refusal → List Int
  | .next t => t.acc
  | .fault _ => []
  | .refused _ => []

/-- Voice 0 after an outcome. -/
def voiceOf : Host.Outcome State Fault Refusal → Option Voice
  | .next t => t.voices.head?
  | .fault _ => none
  | .refused _ => none

/-- The first sample at OUTPUT_BITS 16 (c = s * v >> 10) for each position of a list. -/
def firstSamples (i : Instr) (idxs : List Nat) : List Int :=
  idxs.flatMap fun idx => accOf (exec i (window 16 idx 1))

/-! ## The sound instructions: V2 times 1023, shifted right by 10 (V5, R147) -/

theorem test_triangle_positions :
    firstSamples (.triangle ops440) [0, 256, 511, 512, 767, 1023] =
      [-32736, 0, 32609, 32609, 0, -32736] := by decide +kernel

/-- 41_envelope_phase.md R143 to R145 and V4, fifth row (SAMPLE_RATE 1000), after the first of four samples. -/
theorem test_triangle_registers :
    voiceOf (exec (.triangle ⟨0#8, 125#16, 4#16, 1023#16, 1023#16, 250#16⟩)
      { window 10 0 1 with cfg := { Config.default with sampleRate := 1000 } }) =
      some { req := some 7, start := 0#64, cur := 0, endIdx := 2, phase := 8388608#32, cv := true, vol := 67043328#32,
             tstep := 10485760#32, tdelta := 2097152#32, sleft := 3#32, vstep := 0#32, wave := 1#8 } := by
  decide +kernel

theorem test_sawtooth_positions :
    firstSamples (.sawtooth ops440) [0, 511, 512, 1023] = [-32736, -63, 0, 32673] := by decide +kernel

theorem test_sine_positions :
    firstSamples (.sine ops440) [0, 1, 255, 256, 257, 511, 512, 513, 767, 768, 769, 1023] =
      [0, 199, 32732, 32735, 32732, 199, 0, -200, -32733, -32736, -32733, -200] := by decide +kernel

/-- 41_envelope_phase.md section 6: the first three samples of the document's scenario. -/
theorem test_sine_three_samples :
    accOf (exec (.sine ops440) (window 10 0 3)) = [0, 86, 170] ∧
    voiceOf (exec (.sine ops440) (window 10 0 3)) =
      some { req := some 7, start := 0#64, cur := 0, endIdx := 2, phase := 5536479#32, cv := true, vol := 65786268#32,
             tstep := 1845493#32, tdelta := 0#32, sleft := 157#32, vstep := BitVec.ofInt 32 (-419020), wave := 3#8 } := by
  decide +kernel

/-- V3: the first three draws at full volume. -/
theorem test_noise_draws :
    accOf (exec (.noise ⟨0#8, 440#16, 10#16, 1023#16, 1023#16, 440#16⟩) (window 10 0 3)) = [-50, 38, -288] := by
  decide +kernel

theorem test_square10_duty : firstSamples (.square10 ops440) [101, 102] = [32735, -32736] := by decide +kernel
theorem test_square20_duty : firstSamples (.square20 ops440) [203, 204] = [32735, -32736] := by decide +kernel
theorem test_square30_duty : firstSamples (.square30 ops440) [305, 306] = [32735, -32736] := by decide +kernel
theorem test_square40_duty : firstSamples (.square40 ops440) [407, 408] = [32735, -32736] := by decide +kernel
theorem test_square50_duty : firstSamples (.square50 ops440) [509, 510] = [32735, -32736] := by decide +kernel

/-- R130's worked example: five silent samples, PHASE advanced, the instruction finished, the request not. -/
theorem test_silence_rest :
    let s := { window 10 0 8 with cfg := { Config.default with sampleRate := 1000 } }
    accOf (exec (.silence 0#8 ⟨0#8, 440#16, 5#16, 1023#16, 1023#16, 440#16⟩) s) = List.replicate 8 0 ∧
    (voiceOf (exec (.silence 0#8 ⟨0#8, 440#16, 5#16, 1023#16, 1023#16, 440#16⟩) s)).map
      (fun v => (v.phase, v.cur, v.req, v.sleft)) = some (147639500#32, 1, some 7, 0#32) := by decide +kernel

/-- The last instruction of a request retires it: the entry is Done and the voice unbound (R152, R153). -/
theorem test_silence_retires :
    let s := window 10 0 100
    let v := { Voice.reset with req := some 7, cur := 1, endIdx := 2 }
    ∃ t, exec (.silence 0#8 ⟨0#8, 440#16, 1#16, 0#16, 0#16, 440#16⟩) { s with voices := [v] } = .next t ∧
      t.queue = [⟨7, 0x1000, 24, .done, 0#64⟩] ∧ t.voices.map Voice.req = [none] ∧ t.srvPos = 16 :=
  ⟨_, rfl, by decide +kernel, by decide +kernel, by decide +kernel⟩

/-! ## The commands -/

/-- A program of one word of 96 bits at 0x1000. -/
def programAt (w : Nat) : Memory := memWriteBytes [] 0x1000 (bytesOfNat 12 w)

/-- R211's worked example: G.CURR 160, PLAY(25, 0x1000, 24). -/
theorem test_play_worked_example :
    let s := { State.reset with curr := 160#64, arg0 := 25#32, arg1 := 0x1000#32, arg2 := 24#32 }
    exec .play s = .next { s with
      queue := [⟨0, 0x1000, 24, .waiting, 560#64⟩], pins := [.pin 0x1000 24], nextName := 1 } := rfl

/-- V8: a negative delay means now; and P2's sweep: the PIN before the UNPINs. -/
theorem test_play_negative_delay_sweeps :
    let s := { State.reset with
      curr := 160#64, arg0 := 0x80000000#32, arg1 := 0x1100#32, arg2 := 12#32, nextName := 2
      queue := [⟨1, 0x1100, 12, .done, 3#64⟩, ⟨0, 0x1000, 24, .done, 0#64⟩] }
    exec .play s = .next { s with
      queue := [⟨2, 0x1100, 12, .waiting, 160#64⟩], nextName := 3
      pins := [.pin 0x1100 12, .unpin 0x1100 12, .unpin 0x1000 24] } := rfl

/-- R214's worked example: Q = [e2 (Waiting), e1 (Playing in voice 0)]. -/
theorem test_stop_worked_example :
    let s := { window 10 0 0 with
      queue := [⟨8, 0x1100, 12, .waiting, 9#64⟩, ⟨7, 0x1000, 24, .playing, 0#64⟩], acc := [] }
    exec .stop s = .next { s with
      queue := [], pins := [.unpin 0x1100 12, .unpin 0x1000 24]
      voices := { Voice.reset with endIdx := 2 } :: List.replicate 4 Voice.reset } := rfl

/-- 41_envelope_phase.md section 6 through RENDER: three samples stored, little-endian (86 is 56 00, 170 is AA 00). -/
theorem test_render_three_samples :
    ∃ t, exec .render { State.reset with
        mem := programAt 0x01B8000003FF000A01B80003, queue := [⟨0, 0x1000, 12, .waiting, 0#64⟩], nextName := 1
        arg0 := 3#32, arg1 := 0x2000#32 } = .next t ∧
      memReadBytes t.mem 0x2000 6 = [0x00#8, 0x00#8, 0x56#8, 0x00#8, 0xAA#8, 0x00#8] ∧ t.curr = 3#64 ∧
      t.active = true ∧ t.queue = [⟨0, 0x1000, 12, .playing, 0#64⟩] :=
  ⟨_, rfl, by decide +kernel, by decide +kernel, by decide +kernel, by decide +kernel⟩

/-- S3: RENDER of nothing reports, here an idle engine. -/
theorem test_render_nothing :
    exec .render { State.reset with active := true } = .next State.reset := rfl

theorem test_reserved_does_nothing :
    exec (.cmdReserved 4#32) (window 10 0 3) = .next (window 10 0 3) := rfl

/-! ## The step, the register block, the fatal fault -/

/-- The 96-bit word of R100's example, placed: the next step runs it. -/
theorem test_step_runs_a_placed_sound :
    ∃ t, step (State.reset.withFetchWord 96 0x01B8000003FF000A01B80003) = .next t ∧ t.curr = 1#64 ∧
      (getVoice t 0).wave = 3#8 ∧ (getVoice t 0).sleft = 159#32 ∧ (getVoice t 0).vol = 66624308#32 :=
  ⟨_, rfl, by decide +kernel, by decide +kernel, by decide +kernel, by decide +kernel⟩

theorem test_step_runs_a_placed_command :
    step ({ State.reset with arg2 := 13#32 }.withFetchWord 32 1) =
      .next { State.reset with arg2 := 13#32, fault := true } := rfl

/-- P5: after PLAY with LEN 13 STATUS reads 2. -/
theorem test_status_of_the_dead_engine :
    perform (.busRead 0x40000010 4) { State.reset with fault := true } =
      .next { State.reset with fault := true, busOut := [2#8, 0#8, 0#8, 0#8] } := rfl

theorem test_cfg_misc_reads :
    perform (.busRead 0x40000020 4) State.reset =
      .next { State.reset with busOut := [10#8, 5#8, 0#8, 0#8] } := rfl

theorem test_host_store_reads_back :
    perform (.busWrite 0xFFFFFFFE [1#8, 2#8]) State.reset =
      .next { State.reset with mem := [(0xFFFFFFFE, 1#8), (0xFFFFFFFF, 2#8)] } ∧
    perform (.busWrite 0xFFFFFFFF [1#8, 2#8]) State.reset = .fault .outsideMemory :=
  ⟨rfl, rfl⟩

theorem test_reset_after_the_fault :
    perform .reset { State.reset with fault := true, curr := 9#64 } = .next State.reset := rfl

/-! ## The scheduler and the mixer -/

/-- V7, last row: two due entries and one voice, the tie evicts the first promoted. -/
theorem test_schedule_evicts :
    let c := { Config.default with maxVoices := 1 }
    let s := { State.resetWith c with
      curr := 100#64, nextName := 3
      voices := [{ Voice.reset with req := some 0, start := 40#64, endIdx := 1 }]
      queue := [⟨2, 0x1000, 12, .waiting, 100#64⟩, ⟨1, 0x1000, 12, .waiting, 100#64⟩, ⟨0, 0x1000, 12, .playing, 40#64⟩] }
    (schedule s).2 = none ∧ (schedule s).1.queue.map Entry.state = [.done, .playing, .done] ∧
    (schedule s).1.voices.map Voice.req = [some 1] := by decide +kernel

/-- V6: the bytes of a saturated -512. -/
theorem test_store_saturates :
    memReadBytes (storeSamples Config.default 0x2000 [-512, 1022, -1] []) 0x2000 6 =
      [0x01#8, 0xFE#8, 0xFF#8, 0x01#8, 0xFF#8, 0xFF#8] := by decide +kernel

/-- Two due requests of two samples each: SILENCE then NOISE at 0x1000, NOISE then SILENCE at 0x1100, the latter at the
head of Q. At each sample one voice plays NOISE. -/
def handOver : State :=
  { State.resetWith { Config.default with sampleRate := 1000, maxVoices := 2 } with
    nextName := 2
    mem := memWriteBytes (memWriteBytes [] 0x1000
      (bytesOfNat 24 (0x03E803FF03FF000103E8000503E803FF03FF000103E80000))) 0x1100
      (bytesOfNat 24 (0x03E803FF03FF000103E8000003E803FF03FF000103E80005))
    queue := [⟨1, 0x1100, 24, .waiting, 0#64⟩, ⟨0, 0x1000, 24, .waiting, 0#64⟩] }

/-- Why `RenderSplitsWithoutTrace` takes R216's proviso for each leaf window. V3's first two draws give -50 and 38. The
head of Q is promoted into voice 0, which draws first in a leaf window (R172, R178): with the queue turned round that is
the voice that plays NOISE at sample 1, unless the window is cut between the samples. -/
theorem test_noise_hand_over_depends_on_the_cut :
    let s := { handOver with queue := handOver.queue.reverse }
    (∃ t, renderCommand 0x2000 2 handOver = .next t ∧ sampleAt t.mem 0x2000 = -50 ∧ sampleAt t.mem 0x2002 = 38) ∧
    (∃ t, renderCommand 0x2000 2 s = .next t ∧ sampleAt t.mem 0x2000 = 38 ∧ sampleAt t.mem 0x2002 = -50) ∧
    ∃ t1 t, renderCommand 0x2000 1 s = .next t1 ∧ renderCommand 0x2002 1 t1 = .next t ∧
      sampleAt t.mem 0x2000 = -50 ∧ sampleAt t.mem 0x2002 = 38 :=
  ⟨⟨_, rfl, by decide +kernel, by decide +kernel⟩, ⟨_, rfl, by decide +kernel, by decide +kernel⟩,
    _, _, rfl, rfl, by decide +kernel, by decide +kernel⟩

/-- A register block that begins at the last word of the address space: CMD is reached, ARG0 is past the last address
(log 24). -/
theorem test_block_at_the_top :
    let s := State.resetWith { Config.default with regBase := 0xFFFFFFFC }
    perform (.busRead 0xFFFFFFFC 4) s = .next { s with busOut := [0#8, 0#8, 0#8, 0#8] } ∧
    perform (.busRead 0x100000000 4) s = .fault .outsideMemory ∧
    perform (.busWrite 0x100000000 [1#8, 0#8, 0#8, 0#8]) s = .fault .outsideMemory := ⟨rfl, rfl, rfl⟩

/-- REG_BASE is an address: 2^32 is none when ADDR_BITS is 32 (log 23). -/
theorem test_base_is_an_address :
    { Config.default with regBase := 0xFFFFFFFC }.Legal ∧ ¬ { Config.default with regBase := 0x100000000 }.Legal := by
  decide +kernel

/-! ## Witnesses: states and operands that meet the hypotheses of the statements, together -/

/-- A running engine: voice 0 three samples into R100's instruction, one request waiting, one Done. -/
def running : State :=
  { State.reset with
    curr := 3#64, nextName := 3, mem := programAt 0x01B8000003FF000A01B80003
    queue := [⟨2, 0x1100, 0, .waiting, 9#64⟩, ⟨1, 0x1000, 12, .playing, 0#64⟩, ⟨0, 0x1000, 12, .done, 0#64⟩]
    pins := [.pin 0x1000 12, .pin 0x1000 12, .pin 0x1100 0]
    voices := { req := some 1, start := 0#64, cur := 0, endIdx := 1, phase := 5536479#32, cv := true, vol := 65786268#32,
                tstep := 1845493#32, tdelta := 0#32, sleft := 157#32, vstep := BitVec.ofInt 32 (-419020), wave := 3#8 } ::
      List.replicate 4 Voice.reset }

theorem running_legal : running.cfg.Legal := by decide +kernel
theorem running_memInv : MemInv running := ⟨by decide +kernel, by decide +kernel⟩
theorem running_queueInv : QueueInv running := ⟨by decide +kernel, by decide +kernel⟩
theorem running_voicesInv : VoicesInv running :=
  ⟨by decide +kernel, by decide +kernel, by decide +kernel, by decide +kernel, by decide +kernel⟩

/-- For every statement with the premise `Inv`. -/
theorem witness_inv : Inv running :=
  ⟨running_legal, running_memInv, running_queueInv, running_voicesInv, ⟨rfl, rfl, rfl⟩, by decide +kernel⟩

/-- A queued, due, one-instruction program at 0x1000 with every voice free, and a RENDER of two samples to 0x2000 as the
next host move. -/
def queued : State :=
  { State.reset with
    mem := programAt 0x01B8000003FF000A01B80003, queue := [⟨0, 0x1000, 12, .waiting, 0#64⟩], nextName := 1
    pins := [.pin 0x1000 12], arg0 := 2#32, arg1 := 0x2000#32
    pending := [.busWrite 0x40000000 (bytesOfWord 3#32)] }

theorem queued_inv : Inv queued :=
  ⟨by decide +kernel, ⟨by decide +kernel, by decide +kernel⟩, ⟨by decide +kernel, by decide +kernel⟩,
    ⟨by decide +kernel, by decide +kernel, by decide +kernel, by decide +kernel, by decide +kernel⟩, ⟨rfl, rfl, rfl⟩,
    by decide +kernel⟩

/-! ### Encoding -/

theorem witness_DecodeOfEncodeIsTheInstruction :
    WellFormed (.sine ops440) = true ∧ WellFormed (.silence 255#8 ops440) = true ∧ WellFormed .play = true ∧
    WellFormed (.cmdReserved 0xFFFFFFFF#32) = true := by decide

theorem witness_EncodeOfDecodeIsTheBytes :
    decode .program (bytes440 3#8 ++ [7#8]) = .ok (.sine ops440) [7#8] ∧
    decode .command [2#8, 0#8, 0#8, 0#8, 9#8] = .ok .stop [9#8] := by decide

/-- Lengths 11, 12 and 13. -/
theorem witness_EveryTwelveBytesAreOneInstruction :
    (List.replicate 11 3#8).length < 12 ∧ 12 ≤ (List.replicate 12 3#8).length ∧
    12 ≤ (List.replicate 13 3#8).length := by decide

/-! ### Fetch and step -/

theorem witness_FetchRunsTheDecodedInstruction :
    (getVoice running running.srvVoice).req = some 1 ∧
    findEntry running.queue 1 = some ⟨1, 0x1000, 12, .playing, 0#64⟩ ∧
    0x1000 + 12 * (getVoice running running.srvVoice).cur + 12 ≤ running.cfg.memSize ∧
    decode .program (memReadBytes running.mem (0x1000 + 12 * (getVoice running running.srvVoice).cur) 12) =
      .ok (.sine ops440) [] :=
  ⟨rfl, rfl, by decide +kernel, by decide +kernel⟩

theorem witness_StepRunsTheDecodedCommand :
    queued.cfg.Legal ∧ queued.cfg.addrBits = 32 ∧
    queued.pending = .busWrite queued.cfg.regBase (bytesOfWord 3#32) :: [] :=
  ⟨by decide +kernel, rfl, rfl⟩

theorem witness_StepRunsAOneInstructionProgram :
    queued.cfg.Legal ∧ queued.cfg.addrBits = 32 ∧ queued.voices.length = queued.cfg.maxVoices ∧
    (∀ v ∈ queued.voices, v.req = none) ∧ queued.fault = false ∧
    queued.pending = .busWrite queued.cfg.regBase (bytesOfWord 3#32) :: [] ∧ 1 ≤ queued.arg0.toNat ∧
    renderRefusal queued.arg1.toNat queued.arg0.toNat queued = none ∧
    queued.queue = [⟨0, 0x1000, 12, .waiting, 0#64⟩] ∧ 0x1000 + 12 ≤ queued.cfg.memSize ∧
    decode .program (memReadBytes queued.mem 0x1000 12) = .ok (.sine ops440) [] :=
  ⟨by decide +kernel, rfl, rfl, by decide +kernel, rfl, rfl, by decide +kernel, by decide +kernel, rfl, by decide +kernel,
    by decide +kernel⟩

/-! ### The sound instructions -/

/-- The premises of the four FirstSample statements and of the other statements about a sound instruction, at the phase
positions where the clauses of the generators meet. -/
theorem witness_sound_premises :
    ∀ idx ∈ [0, 101, 102, 203, 204, 256, 257, 305, 306, 407, 408, 509, 510, 511, 512, 768, 769, 1023],
      (window 10 idx 3).cfg.Legal ∧ (window 10 idx 3).srvVoice < (window 10 idx 3).voices.length ∧
      (window 10 idx 3).acc[(window 10 idx 3).srvPos]? = some 0 ∧
      (getVoice (window 10 idx 3) 0).phase.toNat / 2 ^ 16 % 1024 = idx := by decide +kernel

theorem witness_SquaresAddTheirFirstSample :
    (Instr.square50 ops440, 5) ∈ [(Instr.square10 ops440, 1), (.square20 ops440, 2), (.square30 ops440, 3),
      (.square40 ops440, 4), (.square50 ops440, 5)] := by decide

/-- The last sample made, and the one after it. -/
theorem witness_NoiseDrawsOneValuePerSample :
    samplesMade (window 10 0 3) ops440 = 3 ∧ 2 < samplesMade (window 10 0 3) ops440 ∧
    (window 10 0 3).acc[(window 10 0 3).srvPos + 2]? = some 0 ∧
    ¬ 3 < samplesMade (window 10 0 3) ops440 := by decide +kernel

theorem witness_SilenceAddsNothing : WellFormed (.silence 16#8 ops440) = true := by decide

/-- An instruction cut by the window (3 of 160 samples), one that ends with it (16 of 16), and one that ends its request
inside it. -/
theorem witness_SoundInstructionRegisters :
    (Instr.sine ops440).sound = some (3#8, ops440) ∧
    samplesMade (window 10 0 3) ops440 < sampleCount (window 10 0 3).cfg (clampOps ops440).d ∧
    samplesMade (window 10 0 16) { ops440 with duration := 1#16 } =
      sampleCount (window 10 0 16).cfg (clampOps { ops440 with duration := 1#16 }).d ∧
    (let s := { window 10 0 17 with voices := [{ Voice.reset with req := some 7, cur := 1, endIdx := 2 }] }
     samplesMade s { ops440 with duration := 1#16 } =
       sampleCount s.cfg (clampOps { ops440 with duration := 1#16 }).d ∧
     (getVoice s s.srvVoice).endIdx ≤ (getVoice s s.srvVoice).cur + 1) := by decide +kernel

theorem witness_SoundInstructionContributions :
    (Instr.square10 ops440).sound = some (11#8, ops440) ∧ (11#8 : Byte) ≠ 5#8 ∧
    (window 10 0 3).acc[0]? = some 0 ∧ (window 10 0 3).acc[2]? = some 0 := by decide +kernel

theorem witness_SoundInstructionFrame :
    (Instr.noise ops440).sound = some (5#8, ops440) ∧ (Instr.sine ops440).sound = some (3#8, ops440) ∧
    (3#8 : Byte) ≠ 5#8 ∧ (1 : Nat) ≠ (window 10 0 3).srvVoice := by decide

/-! ### The datapath -/

theorem witness_GeneratorsStayInRange :
    (0 : Nat) < 1024 ∧ (1023 : Nat) < 1024 ∧ (3#8 : Byte) ≠ 5#8 := by decide

/-- Both ends of the amplitude and of the volume. -/
theorem witness_ContributionFitsTheOutputDepth :
    Config.default.Legal ∧ (∀ amp ∈ [(-32767 : Int), 32768], -32767 ≤ amp ∧ amp ≤ 32768) ∧
    (0#32).toInt = 0 ∧ (0x03FF0000#32).toInt = 1023 * 2 ^ 16 :=
  ⟨by decide +kernel, by decide, by decide, by decide⟩

/-- The first sample and the end of the ramp. -/
theorem witness_RampsNeverPassTheirEnd :
    Config.default.Legal ∧ 0 ≤ sampleCount Config.default (clampOps ops440).d ∧
    160 ≤ sampleCount Config.default (clampOps ops440).d := by decide +kernel

theorem witness_RunningVoiceIsWithinItsBounds :
    Carried running ∧ ∃ v ∈ running.voices, ∃ e ∈ running.queue, v.req = some e.name ∧ v.cv = true :=
  ⟨by decide +kernel, _, List.mem_cons_self, _, List.mem_cons_of_mem _ List.mem_cons_self, rfl, rfl⟩

/-- The same voice, its request promoted and not yet entered. -/
def fresh : State :=
  { running with voices := { Voice.reset with req := some 1, endIdx := 1 } :: List.replicate 4 Voice.reset }

theorem witness_RunningVoiceIsWithinItsBounds_fresh :
    Inv fresh ∧ ∃ v ∈ fresh.voices, v.req ≠ none ∧ v.cv = false :=
  ⟨⟨running_legal, running_memInv, running_queueInv,
      ⟨by decide +kernel, by decide +kernel, by decide +kernel, by decide +kernel, by decide +kernel⟩, ⟨rfl, rfl, rfl⟩,
      by decide +kernel⟩,
    _, List.mem_cons_self, by decide +kernel, rfl⟩

theorem witness_EmptyRequestRetiresSilently :
    let s := { running with voices := [{ Voice.reset with req := some 2 }] }
    0 < s.voices.length ∧ (getVoice s 0).req = some 2 ∧ (getVoice s 0).cv = false ∧ (getVoice s 0).cur = 0 ∧
    (getVoice s 0).endIdx = 0 := by decide +kernel

theorem witness_VoiceRunIsSampleBySample :
    let s := openWindow 2 running
    s.cfg.Legal ∧ isBound (getVoice s 0) = true ∧ 1 ≤ s.acc.length := by decide +kernel

/-- The same from a fresh voice (CV = 0). -/
theorem witness_VoiceRunIsSampleBySample_fresh :
    let s := openWindow 2 fresh
    s.cfg.Legal ∧ isBound (getVoice s 0) = true ∧ (getVoice s 0).cv = false ∧ 1 ≤ s.acc.length := by decide +kernel

theorem witness_MixingIsPlainAddition :
    ∃ t, runVoice 0 { running with acc := List.replicate [5, -7].length 0 } = .next t := ⟨_, rfl⟩

/-! ### The scheduler -/

/-- Nothing waiting, something waiting, something due. -/
theorem witness_SchedulingPromotesEverythingDue :
    (schedule State.reset).2 = none ∧ (schedule running).2 = some 6 ∧ (schedule queued).2 = none := by decide +kernel

/-- Its first clause, with entries before and after the due one, itself due at the last moment; and its second. -/
theorem witness_SchedulingPromotesEverythingDue_restarts :
    let e : Entry := ⟨1, 0x1000, 12, .waiting, 3#64⟩
    let q1 : List Entry := [⟨3, 0x1100, 0, .waiting, 4#64⟩, ⟨2, 0x1100, 0, .done, 0#64⟩]
    let s := { running with queue := q1 ++ e :: [⟨0, 0x1000, 12, .waiting, 3#64⟩] }
    (∀ d ∈ q1, d.state = .waiting → s.curr.toNat < d.start.toNat) ∧ e.state = .waiting ∧ e.start.toNat ≤ s.curr.toNat ∧
    (∀ d ∈ running.queue, d.state = .waiting → running.curr.toNat < d.start.toNat) := by decide +kernel

/-- A free voice; and every voice bound, the smallest START twice. -/
theorem witness_PromotionBindsTheChosenVoice :
    running.voices ≠ [] ∧ chooseVoice running.voices = 1 ∧
    (let vs := [{ Voice.reset with req := some 0, start := 5#64 }, { Voice.reset with req := some 1, start := 4#64 },
      { Voice.reset with req := some 2, start := 4#64 }]
     vs ≠ [] ∧ chooseVoice vs = 1) := by decide +kernel

/-! ### PLAY -/

/-- The premises of PLAY's statements on the state `s`, but for its length and its refusals. -/
abbrev PlayFits (s : State) : Prop :=
  s.fault = false ∧ s.arg1.toNat < s.cfg.memSize ∧ s.arg2.toNat < s.cfg.memSize ∧
  s.arg1.toNat + s.arg2.toNat ≤ s.cfg.memSize ∧ overlapsDevice s.cfg s.arg1.toNat s.arg2.toNat = false ∧
  s.curr.toNat + (max s.arg0.toInt 0).toNat * s.cfg.sampleRate / 1000 < 2 ^ 64 ∧
  (∀ cap ∈ s.cfg.queueCap, s.queue.countP (fun e => e.state ≠ .done) < cap)

/-- A buffer ending at the top of memory, a negative delay, a bounded queue with one place left; and an empty buffer at
the latest clock. -/
theorem witness_PlayQueuesTheRequest :
    (let s := { running with
        cfg := { Config.default with queueCap := some 3 }, arg0 := 0xFFFFFFFF#32, arg1 := 0xFFFFFFF4#32, arg2 := 12#32 }
     PlayFits s ∧ s.arg2.toNat % 12 = 0) ∧
    (let s := { running with curr := BitVec.ofNat 64 (2 ^ 64 - 1), arg0 := 0#32, arg1 := 0#32, arg2 := 0#32 }
     PlayFits s ∧ s.arg2.toNat % 12 = 0) := by decide +kernel

theorem witness_PlayOfMisalignedLengthIsFatal :
    let s := { running with arg1 := 0x1000#32, arg2 := 13#32 }
    PlayFits s ∧ s.arg2.toNat % 12 ≠ 0 := by decide +kernel

/-- Each of the four reasons at its boundary: one byte past the top, the last byte of the buffer on the first of the
block, START one past 2^64 - 1, a full queue. -/
theorem witness_PlayIsRefusedOutOfRange :
    running.fault = false ∧
    (let s := { running with arg1 := 0xFFFFFFF5#32, arg2 := 12#32 }
     s.cfg.memSize < s.arg1.toNat + s.arg2.toNat) ∧
    (let s := { running with arg1 := 0x3FFFFFF5#32, arg2 := 12#32 }
     s.arg1.toNat ≤ 0x40000000 ∧ 0x40000000 < s.arg1.toNat + s.arg2.toNat ∧ s.cfg.regBase ≤ 0x40000000 ∧
       0x40000000 < s.cfg.regBase + 36) ∧
    (let s := { running with curr := BitVec.ofNat 64 (2 ^ 64 - 16), arg0 := 1#32 }
     2 ^ 64 ≤ s.curr.toNat + (max s.arg0.toInt 0).toNat * s.cfg.sampleRate / 1000) ∧
    (let s := { running with cfg := { Config.default with queueCap := some 2 } }
     s.cfg.queueCap = some 2 ∧ 2 ≤ s.queue.countP (fun e => e.state ≠ .done)) := by decide +kernel

/-! ### STOP -/

theorem witness_StopClearsTheQueueAndTheBindings : running.fault = false := rfl

theorem witness_RenderAfterStopIsSilent :
    running.cfg.Legal ∧ Memory.wf running.mem ∧ running.fault = false ∧ (∃ t, stopCommand running = .next t) ∧
    0x2000 < running.cfg.memSize ∧ 0x2000 + 2 * 4 ≤ running.cfg.memSize ∧
    overlapsDevice running.cfg 0x2000 (2 * 4) = false ∧ running.curr.toNat + 4 < 2 ^ 64 :=
  ⟨running_legal, running_memInv.1, rfl, ⟨_, rfl⟩, by decide +kernel, by decide +kernel, by decide +kernel,
    by decide +kernel⟩

/-! ### RENDER -/

/-- A window that ends where the pinned buffer begins; `witness_inv` gives `Inv`, which these fields leave alone. -/
theorem witness_RenderCompletes :
    let s := { running with arg0 := 4#32, arg1 := 0xFF8#32 }
    Inv s ∧ s.fault = false ∧ s.arg1.toNat + 2 * s.arg0.toNat ≤ s.cfg.memSize ∧ s.arg1.toNat < s.cfg.memSize ∧
    overlapsDevice s.cfg s.arg1.toNat (2 * s.arg0.toNat) = false ∧
    (∀ e ∈ s.queue, ∀ a, e.base ≤ a → a < e.base + e.len → a < s.arg1.toNat ∨ s.arg1.toNat + 2 * s.arg0.toNat ≤ a) ∧
    s.curr.toNat + s.arg0.toNat < 2 ^ 64 := by
  refine ⟨witness_inv, rfl, by decide +kernel, by decide +kernel, by decide +kernel, ?_, by decide +kernel⟩
  intro e he a h1 _
  have : ∀ d ∈ running.queue, 0x1000 ≤ d.base := by decide +kernel
  exact Or.inr (Nat.le_trans (this e he) h1)

/-- Two bound voices, voice 0 in R100's SINE and voice 1 about to enter a NOISE, and a request that falls due six samples
on. -/
def duet : State :=
  { running with
    nextName := 4
    mem := memWriteBytes running.mem 0x1200 (bytesOfNat 12 0x03E803FF03FF000A03E80005)
    queue := ⟨3, 0x1200, 12, .playing, 3#64⟩ :: running.queue
    voices := running.voices.set 1 { Voice.reset with req := some 3, start := 3#64, endIdx := 1 } }

theorem duet_inv : Inv duet :=
  ⟨by decide +kernel, ⟨by decide +kernel, by decide +kernel⟩, ⟨by decide +kernel, by decide +kernel⟩,
    ⟨by decide +kernel, by decide +kernel, by decide +kernel, by decide +kernel, by decide +kernel⟩, ⟨rfl, rfl, rfl⟩,
    by decide +kernel⟩

/-- Both voices run; the second clause with n at the wait itself. -/
theorem witness_RenderedSamplesAreSaturated :
    duet.cfg.Legal ∧ Memory.wf duet.mem ∧ duet.fault = false ∧
    (∃ runs u, soloRuns 2 (List.range duet.cfg.maxVoices) duet = .next (runs, u) ∧ runs.length = 2) ∧
    (let s := { duet with arg0 := 6#32, arg1 := 0x2000#32 }
     1 ≤ s.arg0.toNat ∧ renderRefusal s.arg1.toNat s.arg0.toNat s = none ∧ (schedule s).2 = some 6 ∧
       s.arg0.toNat ≤ 6) ∧
    ∃ t, renderCommand 0x2000 2 duet = .next t :=
  ⟨by decide +kernel, duet_inv.2.1.1, rfl, ⟨_, _, rfl, rfl⟩, by decide +kernel, _, rfl⟩

theorem witness_RenderOfNothingOnlyReports :
    running.fault = false ∧ running.arg0 = 0#32 ∧ running.arg1.toNat < running.cfg.memSize := by decide +kernel

/-- With n = 0 and with n = 2. -/
theorem witness_RenderReportsActivityAtItsStart :
    running.fault = false ∧ (∃ t, exec .render running = .next t) ∧ queued.fault = false ∧
    ∃ t, exec .render queued = .next t :=
  ⟨rfl, ⟨_, rfl⟩, rfl, _, rfl⟩

/-- Each of the four reasons at its boundary: one byte past the top, the last byte of the window on the first of the block
and of a pinned buffer, a clock one past 2^64 - 1. -/
theorem witness_RenderIsRefusedOutOfRange :
    running.fault = false ∧
    (let s := { running with arg0 := 1#32, arg1 := 0xFFFFFFFF#32 }
     s.cfg.memSize < s.arg1.toNat + 2 * s.arg0.toNat) ∧
    (let s := { running with arg0 := 1#32, arg1 := 0x3FFFFFFF#32 }
     s.arg1.toNat ≤ 0x40000000 ∧ 0x40000000 < s.arg1.toNat + 2 * s.arg0.toNat ∧ s.cfg.regBase ≤ 0x40000000 ∧
       0x40000000 < s.cfg.regBase + 36) ∧
    (let s := { running with arg0 := 1#32, arg1 := 0xFFF#32 }
     s.arg1.toNat ≤ 0x1000 ∧ 0x1000 < s.arg1.toNat + 2 * s.arg0.toNat ∧
       ∃ e ∈ s.queue, e.base ≤ 0x1000 ∧ 0x1000 < e.base + e.len) ∧
    (let s := { running with curr := BitVec.ofNat 64 (2 ^ 64 - 1), arg0 := 1#32 }
     2 ^ 64 ≤ s.curr.toNat + s.arg0.toNat) := by decide +kernel

/-- The wait is 6 samples: a window of 7 splits. -/
theorem witness_SplitResultIsTheOrAndIsOne :
    (schedule running).2 = some 6 ∧ 6 < 7 ∧ 7 ≤ 6 + 1 ∧ ∃ u b, render1 (6 + 1) 0x2000 7 running = .next (u, b) :=
  ⟨by decide +kernel, by decide, by decide, _, _, rfl⟩

theorem witness_RenderIsALoop : 1 ≤ 1 ∧ 1 ≤ 7 := by decide

/-- One voice bound, nothing waiting. -/
def playing : State := { running with queue := [⟨1, 0x1000, 12, .playing, 0#64⟩] }

theorem witness_RenderSplitsWithoutTrace :
    Inv playing ∧ playing.fault = false ∧ (∀ e ∈ playing.queue, e.state ≠ .waiting) ∧
    playing.voices.countP isBound ≤ 1 ∧ 0 < 1 ∧ 1 < 2 ∧ renderRefusal 0x2000 2 playing = none ∧
    oneNoiseVoice 2 0x2000 2 playing = true :=
  ⟨⟨running_legal, running_memInv, ⟨by decide +kernel, by decide +kernel⟩,
      ⟨by decide +kernel, by decide +kernel, by decide +kernel, by decide +kernel, by decide +kernel⟩, ⟨rfl, rfl, rfl⟩,
      by decide +kernel⟩,
    rfl, by decide +kernel, by decide +kernel, by decide, by decide, by decide +kernel, by decide +kernel⟩

/-- Two voices bound, one of them in NOISE, a promotion after six samples, and the cut beside it. -/
theorem witness_RenderSplitsWithoutTrace_duet :
    Inv duet ∧ duet.fault = false ∧ 0 < 5 ∧ 5 < 7 ∧ renderRefusal 0x2000 7 duet = none ∧
    (schedule duet).2 = some 6 ∧ duet.voices.countP isBound = 2 ∧ oneNoiseVoice 7 0x2000 7 duet = true :=
  ⟨duet_inv, rfl, by decide, by decide, by decide +kernel, by decide +kernel, by decide +kernel, by decide +kernel⟩

/-! ### The dead engine, the reserved commands, the register block -/

theorem witness_DeadEngineIgnoresEveryCommand : { running with fault := true }.fault = true := rfl

/-- The least and the greatest reserved words. -/
theorem witness_ReservedCommandsDoNothing :
    0#32 = 0#32 ∧ 4 ≤ (4#32).toNat ∧ 4 ≤ (0xFFFFFFFF#32).toNat := by decide

theorem witness_CmdWriteExecutesTheCommand :
    (∃ t, writeReg .cmd 3#32 queued = .next t) ∧ (0#32).extractLsb' 0 2 = 0#2 ∧
    (5#32).extractLsb' 2 30 ≠ 0#30 ∧ { running with fault := true }.fault = true :=
  ⟨⟨_, rfl⟩, by decide, by decide, rfl⟩

theorem witness_StatusReadsActiveAndFault :
    queued.fault = false ∧ renderRefusal 0x2000 2 queued = none ∧ 1 ≤ 2 ∧
    ∃ t b, render1 2 0x2000 2 queued = .next (t, b) :=
  ⟨rfl, by decide +kernel, by decide, _, _, rfl⟩

/-- The configuration premises of the register statements, and a command that leaves a next state. -/
theorem witness_registerBlock :
    running.cfg.Legal ∧ running.cfg.addrBits = 32 ∧ ∃ t, runCommand .stop running = .next t :=
  ⟨running_legal, rfl, _, rfl⟩

/-- The last register that is an address, and the first that is not. -/
theorem witness_registerBlock_at_the_top :
    let c := { Config.default with regBase := 0xFFFFFFF0 }
    c.Legal ∧ c.addrBits = 32 ∧ c.regBase + 0x0C < 2 ^ 32 ∧ ¬ c.regBase + 0x10 < 2 ^ 32 := by decide +kernel

/-- A byte read of the first register, a misaligned read across the last, and a word ending on the first byte. -/
theorem witness_OddRegisterAccessIsRefused :
    running.cfg.regBase ≤ 0x40000000 ∧ [1#8].length ≠ 4 ∧
    (0x40000022 ≤ 0x40000023 ∧ 0x40000023 < running.cfg.regBase + 36 ∧ 0x40000022 % 4 ≠ 0) ∧
    (0x3FFFFFFD ≤ 0x40000000 ∧ 0x40000000 < 0x3FFFFFFD + [1#8, 2#8, 3#8, 4#8].length ∧ 0x3FFFFFFD % 4 ≠ 0) ∧
    (0xFFFFFFFF + [1#8].length ≤ 2 ^ 32 ∧ ¬ 0xFFFFFFFF + [1#8, 2#8].length ≤ 2 ^ 32) := by
  decide +kernel

/-! ### Host memory -/

/-- The first byte of the buffer as the last written, and its last byte as the first written. -/
theorem witness_HostWriteToAPinnedByteIsRefused :
    (⟨0, 0x1000, 12, .done, 0#64⟩ : Entry) ∈ running.queue ∧ 0xFFF ≤ 0x1000 ∧ 0x1000 < 0xFFF + [1#8, 2#8].length ∧
    0x100B ≤ 0x100B ∧ 0x100B < 0x1000 + 12 ∧ 0xFFF + [1#8, 2#8].length ≤ running.cfg.memSize ∧
    overlapsDevice running.cfg 0xFFF [1#8, 2#8].length = false := by decide +kernel

/-- The two bytes right before a pinned buffer. -/
theorem witness_HostStoreReadsBack :
    Memory.wf running.mem ∧ 0xFFE + [1#8, 2#8].length ≤ running.cfg.memSize ∧
    overlapsDevice running.cfg 0xFFE [1#8, 2#8].length = false ∧
    ∀ e ∈ running.queue, ∀ a, e.base ≤ a → a < e.base + e.len → a < 0xFFE ∨ 0xFFE + [1#8, 2#8].length ≤ a := by
  refine ⟨running_memInv.1, by decide +kernel, by decide +kernel, ?_⟩
  intro e he a h1 _
  have : ∀ d ∈ running.queue, 0x1000 ≤ d.base := by decide +kernel
  exact Or.inr (Nat.le_trans (this e he) h1)

/-! ### Rules of the whole machine -/

/-- The fault raised; a move of a dead engine; reset. -/
theorem witness_FaultIsStickyUntilReset :
    (∃ t, perform (.command (.play 0#32 0x1000 13)) running = .next t ∧ t.fault = true) ∧
    (∃ t, perform (.command .stop) { running with fault := true } = .next t) ∧
    ∃ t, perform .reset { running with fault := true } = .next t :=
  ⟨⟨_, rfl, rfl⟩, ⟨_, rfl⟩, _, rfl⟩

theorem witness_ClockCountsRenderedSamples :
    (∃ t, renderCommand 0x2000 2 running = .next t) ∧ (∃ t, playCommand 0 0x1000 12 running = .next t) ∧
    (∃ t, stopCommand running = .next t) ∧ ∃ t, perform (.command (.render 0x2000 2#32)) running = .next t :=
  ⟨⟨_, rfl⟩, ⟨_, rfl⟩, ⟨_, rfl⟩, _, rfl⟩

/-- For the statements about every step: `queued` meets `Inv` (above), `Carried`, and has a next state. -/
theorem witness_step : (∃ t, step queued = .next t) ∧ Memory.wf queued.mem := ⟨⟨_, rfl⟩, by decide +kernel⟩

/-- With a voice in the middle of its instruction. -/
theorem witness_StepKeepsVoicesTrueToTheirInstructions : Carried running := by decide +kernel

theorem witness_StepKeepsPinsBalanced : PinsBalanced State.reset := fun _ _ => rfl

theorem witness_ResetLegal : Config.default.Legal := by decide +kernel

end Sys2Proof.Tests
end

