-- ==== Sys2Proof/Proofs/HostState.lean ====
section
/-! SUPPORT. What RENDER leaves alone, what the fatal fault freezes (R23, R220), how a CMD word selects its command
(R47) and what the bits of STATUS are (R46). -/

namespace Sys2Proof.Machine

/-! ## What RENDER leaves alone -/

/-- What a leaf window leaves alone: the arguments, the flags, the pin port and the entries' names are not among the
things Leaf writes (R170 to R177). -/
theorem leafWindow_frame {dst n : Nat} {s : State} {r : State × Bool} (h : leafWindow dst n s = .next r) :
    r.1.cfg = s.cfg ∧ r.1.fault = s.fault ∧ r.1.active = s.active ∧ r.1.arg0 = s.arg0 ∧ r.1.arg1 = s.arg1 ∧
    r.1.arg2 = s.arg2 ∧ r.1.pins = s.pins ∧ r.1.nextName = s.nextName ∧ r.1.pending = s.pending ∧
    r.1.busOut = s.busOut ∧ r.1.queue.map Entry.name = s.queue.map Entry.name := by
  obtain ⟨u, hu, rfl⟩ := leafWindow_next h
  obtain ⟨hcfg, -, hfault, hactive, h0, h1, h2, hpins, -, hname, hpend, hbus, -, -, hq⟩ := runVoices_frame hu
  exact ⟨hcfg, hfault, hactive, h0, h1, h2, hpins, hname, hpend, hbus, hq⟩

/-- What a window leaves alone, split or not (R216). -/
theorem render1_frame {fuel dst n : Nat} {s : State} {r : State × Bool} (h : render1 fuel dst n s = .next r) :
    r.1.cfg = s.cfg ∧ r.1.fault = s.fault ∧ r.1.active = s.active ∧ r.1.arg0 = s.arg0 ∧ r.1.arg1 = s.arg1 ∧
    r.1.arg2 = s.arg2 ∧ r.1.pins = s.pins ∧ r.1.nextName = s.nextName ∧ r.1.pending = s.pending ∧
    r.1.busOut = s.busOut ∧ r.1.queue.map Entry.name = s.queue.map Entry.name := by
  refine render1_keeps (P := fun t => t.cfg = s.cfg ∧ t.fault = s.fault ∧ t.active = s.active ∧
    t.arg0 = s.arg0 ∧ t.arg1 = s.arg1 ∧ t.arg2 = s.arg2 ∧ t.pins = s.pins ∧ t.nextName = s.nextName ∧
    t.pending = s.pending ∧ t.busOut = s.busOut ∧ t.queue.map Entry.name = s.queue.map Entry.name) ?_ ?_ (by simp) h
  · intro t ht
    obtain ⟨hcfg, -, -, hfault, hactive, h0, h1, h2, hpins, -, -, -, -, hname, hpend, hbus, -, hq⟩ :=
      schedule_frame t
    simpa only [hcfg, hfault, hactive, h0, h1, h2, hpins, hname, hpend, hbus, hq] using ht
  · intro dst n t r ht hr
    obtain ⟨hcfg, hfault, hactive, h0, h1, h2, hpins, hname, hpend, hbus, hq⟩ := leafWindow_frame hr
    simpa only [hcfg, hfault, hactive, h0, h1, h2, hpins, hname, hpend, hbus, hq] using ht

/-! ## What a command answers, condition by condition -/

/-- PLAY of a length that is not a multiple of 12, not refused, raises the fatal fault (R240). -/
theorem playCommand_fatal {d : Int} {b l : Nat} {s : State} (hf : s.fault = false)
    (hr : playRefusal d b l s = none) (hl : l % 12 ≠ 0) :
    playCommand d b l s = .next (raiseFatal .misalignedLength s) := by
  simp [playCommand, hf, hr, hl]

/-- RENDER of at least one sample, not refused, is Render1 with its result put in G.ACTIVE (R42, R215). -/
theorem renderCommand_of_render1 {dst n : Nat} {s t : State} {b : Bool} (hf : s.fault = false)
    (hr : renderRefusal dst n s = none) (hn : 1 ≤ n) (h : render1 n dst n s = .next (t, b)) :
    renderCommand dst n s = .next { t with active := b } := by
  simp [renderCommand, hf, hr, Nat.one_le_iff_ne_zero.1 hn, h]

/-! ## The dead engine (R23, R220) -/

theorem playCommand_dead {s : State} (hs : s.fault = true) (d : Int) (b l : Nat) :
    playCommand d b l s = .next s := by simp [playCommand, hs]

theorem stopCommand_dead {s : State} (hs : s.fault = true) : stopCommand s = .next s := by
  simp [stopCommand, hs]

theorem renderCommand_dead {s : State} (hs : s.fault = true) (dst n : Nat) :
    renderCommand dst n s = .next s := by simp [renderCommand, hs]

theorem runCommand_dead {s : State} (hs : s.fault = true) (c : Command) : runCommand c s = .next s := by
  cases c with
  | play d b l => exact playCommand_dead hs d.toInt b l
  | stop => exact stopCommand_dead hs
  | render dst n => exact renderCommand_dead hs dst n.toNat

/-- A command word in CMD has no effect on the dead engine, whichever command it is (R47). -/
theorem writeReg_cmd_dead {s : State} (hs : s.fault = true) (w : Word) : writeReg .cmd w s = .next s := by
  rcases decodeCmdWord_cases w with hw | hw | hw | ⟨v, hw⟩ <;> simp only [writeReg, hw]
  · exact playCommand_dead hs _ _ _
  · exact stopCommand_dead hs
  · exact renderCommand_dead hs _ _
  · rfl

/-- Every effect of a command but none at all needs a live engine (R220). -/
theorem CommandEffect.eq_of_dead {s t : State} (h : CommandEffect s t) (hs : s.fault = true) : t = s := by
  cases h with
  | nothing h => exact h
  | fatal hf | play hf | stop hf | renderNone hf | render hf => simp [hs] at hf

/-- Of the effects of a command on a live engine only the fatal fault sets G.FAULT (R23, R240). -/
theorem CommandEffect.fatal_of_fault {s t : State} (h : CommandEffect s t) (hs : s.fault = false)
    (ht : t.fault = true) :
    ∃ d b l, playRefusal d b l s = none ∧ l % 12 ≠ 0 ∧ t = raiseFatal .misalignedLength s := by
  have kept (hk : t.fault = s.fault) : False := by simp [hs, ht] at hk
  cases h with
  | fatal _ d b l hr hl h => exact ⟨d, b, l, hr, hl, h⟩
  | render _ dst n _ _ r h1 h =>
    obtain ⟨-, hfault, -⟩ := render1_frame h1
    subst h
    exact (kept hfault).elim
  | nothing h | play _ _ _ _ _ _ h | stop _ h | renderNone _ h =>
    subst h
    exact (kept rfl).elim

/-- Of the host's moves only a command sets G.FAULT: bus accesses of arguments and memory leave it, reset clears it. -/
theorem MoveEffect.command_of_fault {a : HostAction} {s t : State} (h : MoveEffect a s t) (hs : s.fault = false)
    (ht : t.fault = true) : CommandEffect s t := by
  have kept (hk : t.fault = s.fault) : False := by simp [hs, ht] at hk
  cases h with
  | command h => exact h
  | arg w h => rcases h with rfl | rfl | rfl <;> exact (kept rfl).elim
  | reset _ h =>
    subst h
    cases ht
  | read _ h | store _ _ _ _ h =>
    subst h
    exact (kept rfl).elim

/-- On the dead engine a move other than reset leaves the fault and what it freezes as they are (R23, R242). -/
theorem MoveEffect.frozen_of_dead {a : HostAction} {s t : State} (h : MoveEffect a s t) (hs : s.fault = true)
    (ha : a ≠ .reset) :
    t.fault = s.fault ∧ t.curr = s.curr ∧ t.noise = s.noise ∧ t.active = s.active ∧ t.voices = s.voices ∧
    t.queue = s.queue ∧ t.pins = s.pins := by
  cases h with
  | command h => simp [h.eq_of_dead hs]
  | arg w h => rcases h with rfl | rfl | rfl <;> simp
  | reset hr => exact absurd hr ha
  | read _ h | store _ _ _ _ h => simp [h]

/-! ## The CMD words (R47, R98, R99) -/

/-- The four bytes of a word make it again: bit `i` stands in byte `i / 8` (R61). -/
theorem le32_bytes (w : Word) :
    le32 (w.extractLsb' 0 8) (w.extractLsb' 8 8) (w.extractLsb' 16 8) (w.extractLsb' 24 8) = w := by
  refine BitVec.eq_of_getLsbD_eq fun i hi => ?_
  simp only [le32, BitVec.getLsbD_append, BitVec.getLsbD_extractLsb']
  grind

/-- A CMD write's value goes through the bus bytes and the decoder unchanged (R47). -/
theorem decodeCmdWord_eq (w : Word) : decodeCmdWord w = commandInstr w := by
  simp only [decodeCmdWord, bytesOfWord, decode, decodeCommand, le32_bytes]

/-- Any value but the three named ones changes nothing (R47, R99). -/
theorem writeReg_cmd_reserved {w : Word} (h1 : w ≠ 1#32) (h2 : w ≠ 2#32) (h3 : w ≠ 3#32) (s : State) :
    writeReg .cmd w s = .next s := by
  simp only [writeReg, decodeCmdWord_eq, commandInstr, if_neg h1, if_neg h2, if_neg h3]
  rfl

/-! ## The bits of STATUS (R46) -/

@[simp] theorem statusWord_active (s : State) : (statusWord s).getLsbD 0 = s.active := by
  cases ha : s.active <;> cases hf : s.fault <;> simp [statusWord, ha, hf]

@[simp] theorem statusWord_fault (s : State) : (statusWord s).getLsbD 1 = s.fault := by
  cases ha : s.active <;> cases hf : s.fault <;> simp [statusWord, ha, hf]

/-- The two flags add up to less than 4, so no higher bit is set. -/
theorem statusWord_high (s : State) {k : Nat} (hk : 2 ≤ k) : (statusWord s).getLsbD k = false := by
  have hlt : (if s.active then 1 else 0) + (if s.fault then 2 else 0) < 2 ^ 2 := by split_ifs <;> decide
  rw [statusWord, BitVec.getLsbD_ofNat, Nat.testBit_lt_two_pow (hlt.trans_le (Nat.pow_le_pow_right (by decide) hk)),
    Bool.and_false]

end Sys2Proof.Machine
end

