-- ==== Sys2Proof/Proofs/HostStateObligations.lean ====
section
/-! The statements about the fatal fault, the CMD register and the STATUS register. -/

namespace Sys2Proof.Proofs

open Sys2Proof.Machine

/-- Settles O53: every move is one of the effects of `MoveEffect`, of which only a PLAY's fatal fault sets G.FAULT and
only reset changes what it freezes. -/
theorem faultIsStickyUntilReset : Obligations.FaultIsStickyUntilReset := by
  refine ⟨fun _ => rfl, fun s t a h => ⟨fun hs ht => ?_, fun hs ha => ?_, runCommand_dead, ?_⟩⟩
  · obtain ⟨d, b, l, hr, hl, rfl⟩ := ((perform_effect h).command_of_fault hs ht).fatal_of_fault hs ht
    exact ⟨d, b, l, hl, playCommand_fatal hs hr hl, rfl⟩
  · simpa only [hs] using (perform_effect h).frozen_of_dead hs ha
  · rintro rfl
    injection h with h
    exact h ▸ rfl

/-- Settles O44: CMD's value selects the command, and none of the named values 1 to 3 is a reserved one. -/
theorem cmdWriteExecutesTheCommand : Obligations.CmdWriteExecutesTheCommand := by
  intro s
  refine ⟨rfl, rfl, rfl, fun t _ => statusWord_active t, fun w hw => ?_, writeReg_cmd_dead⟩
  have named_not_reserved : ∀ v ∈ [1#32, 2#32, 3#32],
      ¬ (v.extractLsb' 0 2 = 0#2 ∨ v.extractLsb' 2 30 ≠ 0#30) := by simp
  have hne {v : Word} (hv : v ∈ [1#32, 2#32, 3#32]) : w ≠ v := fun h => named_not_reserved v hv (h ▸ hw)
  exact writeReg_cmd_reserved (hne (by simp)) (hne (by simp)) (hne (by simp)) s

/-- Settles O45: RENDER puts its result in G.ACTIVE, which is bit 0 of STATUS. -/
theorem statusReadsActiveAndFault : Obligations.StatusReadsActiveAndFault := by
  intro s w
  refine ⟨statusWord_active s, statusWord_fault s, fun k hk => statusWord_high s hk, rfl, ?_⟩
  intro dst n t b hf hr hn h
  exact ⟨_, renderCommand_of_render1 hf hr hn h, statusWord_active _⟩

end Sys2Proof.Proofs
end

section
/-! SUPPORT. How many bytes a sound instruction takes (R90, R97), that no rule reads byte 1 (R94), and which CMD words
are reserved (R98, R99). -/

namespace Sys2Proof.Machine

/-! ## Decoding a program, by the number of bytes (R90, R97) -/

/-- An instruction is read off twelve bytes and leaves the others. -/
theorem decode_program_of_le_length {bs : List Byte} (h : 12 ≤ bs.length) :
    ∃ code op, decode .program bs = .ok (soundInstr code op) (bs.drop 12) := by
  match bs, h with
  | _ :: _ :: _ :: _ :: _ :: _ :: _ :: _ :: _ :: _ :: _ :: _ :: _, _ => exact ⟨_, _, rfl⟩

/-- Fewer bytes do not match the one format there is. -/
theorem decode_program_of_length_lt {bs : List Byte} (h : bs.length < 12) :
    decode .program bs = .reject .shortInstruction := by
  simp only [decode]
  unfold decodeSound
  split
  · simp only [List.length_cons] at h
    omega
  · rfl

/-- Commands have no waveform code, so what has one is read from a program. -/
theorem space_of_sound {i : Instr} {code : Byte} {op : SoundOps} (h : i.sound = some (code, op)) :
    i.space = .program := by
  cases i with
  | play | stop | render | cmdReserved => cases h
  | _ => rfl

/-! ## The reserved byte (R94) -/

/-- None of the operands later rules use comes from byte 1 (R95). -/
@[simp] theorem clampOps_flags (op : SoundOps) (fl : Byte) : clampOps { op with flags := fl } = clampOps op := rfl

/-- The common template reads the operands through their clamped values only (R134, R140). -/
theorem playSound_congr_clampOps {op op' : SoundOps} (h : clampOps op = clampOps op') (code : Byte) (s : State) :
    playSound code op s = playSound code op' s := by
  simp only [playSound, enterInstr, h]

/-- What the instruction of a waveform code does (R92, R134). -/
theorem exec_soundInstr (code : Byte) (op : SoundOps) (s : State) :
    exec (soundInstr code op) s = playSound code op s :=
  exec_sound (soundInstr_sound code op) s

/-! ## The CMD words (R98, R99) -/

/-- The bytes of a CMD write are one command, with no byte left. -/
theorem decode_command_bytesOfWord (w : Word) : decode .command (bytesOfWord w) = .ok (commandInstr w) [] := by
  simp only [bytesOfWord, decode, decodeCommand, le32_bytes]

/-- A value below and a value above the named 1 to 3 are reserved. -/
theorem commandInstr_reserved {w : Word} (h : w = 0#32 ∨ 4 ≤ w.toNat) : commandInstr w = .cmdReserved w := by
  have not_named {v : Word} (hv : v ≠ 0#32 ∧ v.toNat < 4) : w ≠ v := by
    rintro rfl
    exact h.elim hv.1 (Nat.not_le.2 hv.2)
  simp only [commandInstr, if_neg (not_named (v := 1#32) (by decide)), if_neg (not_named (v := 2#32) (by decide)),
    if_neg (not_named (v := 3#32) (by decide))]

theorem exec_cmdReserved (w : Word) (s : State) : exec (.cmdReserved w) s = .next s := rfl

end Sys2Proof.Machine
end

section
/-! The statements about the number of bytes, the reserved byte and the reserved CMD values. -/

namespace Sys2Proof.Proofs

open Sys2Proof.Machine

/-- Settles O4: the program decoder looks at the number of bytes only to accept or to reject. -/
theorem everyTwelveBytesAreOneInstruction : Obligations.EveryTwelveBytesAreOneInstruction := by
  refine fun bs => ⟨fun h => ?_, decode_program_of_length_lt⟩
  obtain ⟨code, op, hd⟩ := decode_program_of_le_length h
  exact ⟨_, hd, space_of_sound (soundInstr_sound code op)⟩

/-- Settles O5: every sound instruction is the common template on its clamped operands, and byte 1 is in none of
them. -/
theorem reservedByteIsIgnored : Obligations.ReservedByteIsIgnored := by
  intro code fl op s
  rw [exec_soundInstr, exec_soundInstr]
  exact playSound_congr_clampOps (clampOps_flags op fl) code s

/-- Settles O43: a reserved value goes through the bus bytes and the decoder as it is, and its meaning changes
nothing. -/
theorem reservedCommandsDoNothing : Obligations.ReservedCommandsDoNothing := by
  intro s w hw
  have hd := decode_command_bytesOfWord w
  rw [commandInstr_reserved hw] at hd
  exact ⟨hd, exec_cmdReserved w s⟩

end Sys2Proof.Proofs
end

section
/-! SUPPORT. The first sample of a sound instruction: what it adds to ACC (R120, R134, R146, R147), and that the later
samples leave it alone. -/

namespace Sys2Proof.Machine

/-! ## The operands and the phase position, in arithmetic -/

/-- A clamped volume: a negative one is 0, and 1023 is the greatest (R95). -/
theorem clampVol_eq_min (h : Half) : clampVol h = min h.toInt.toNat 1023 := by
  simp only [clampVol, clampInt]
  split_ifs <;> omega

/-- Bits 25:16 of PHASE, as a number (R28). -/
theorem phaseIdx_eq (p : Word) : phaseIdx p = p.toNat / 2 ^ 16 % 1024 := by
  rw [phaseIdx, BitVec.extractLsb'_toNat, Nat.shiftRight_eq_div_pow]

/-- The envelope multiplier as exact integer division: its arithmetic shifts round down (R147). -/
theorem contribution_eq_div (c : Config) (amp : Int) (vol : Word) :
    contribution c amp vol = amp * (vol.toInt / 2 ^ 16) / 2 ^ (26 - c.outputBits) := by
  have hshift : contribution c amp vol = (amp * (vol.toInt >>> (16 : Nat))) >>> (26 - c.outputBits) := by
    -- Mathlib reads the shift by a literal 16 as one by an integer; on each sign of the volume the two compute alike.
    unfold contribution Config.mixshift
    cases vol.toInt <;> rfl
  rw [hshift, Int.shiftRight_eq_div_pow, Int.shiftRight_eq_div_pow]
  norm_cast

/-- At a volume without fraction bits the multiplier scales the amplitude by the volume itself (R30, R147). -/
theorem contribution_of_whole_volume (c : Config) (amp : Int) {v : Nat} (hv : v ≤ 1023) :
    contribution c amp (BitVec.ofNat 32 (v * 2 ^ 16)) = amp * v / 2 ^ (26 - c.outputBits) := by
  have hvol : (BitVec.ofNat 32 (v * 2 ^ 16)).toInt = (v : Int) * 2 ^ 16 := by
    rw [BitVec.toInt_ofNat', Int.bmod_eq_of_le] <;> omega
  rw [contribution_eq_div, hvol, Int.mul_ediv_cancel _ (by decide)]

/-! ## ACC along the samples -/

/-- A sample adds to the element of ACC it is at (R146). -/
theorem sampleStep_acc_self {s : State} {x : Int} (h : s.acc[s.srvPos]? = some x) :
    (sampleStep s).acc[s.srvPos]? =
      some (x + contribution s.cfg
        (waveGen s.cfg (getVoice s s.srvVoice).wave (phaseIdx (getVoice s s.srvVoice).phase) s.noise).1
        (getVoice s s.srvVoice).vol) := by
  simp [h]

/-- Samples leave the elements of ACC before their positions alone (R146). -/
theorem runSamples_acc_of_lt (n : Nat) {s : State} {j : Nat} (hj : j < s.srvPos) :
    (runSamples n s).acc[j]? = s.acc[j]? := by
  have kept : j < (runSamples n s).srvPos ∧ (runSamples n s).acc[j]? = s.acc[j]? := by
    refine runSamples_keeps (P := fun t => j < t.srvPos ∧ t.acc[j]? = s.acc[j]?) ?_ n ⟨hj, rfl⟩
    rintro t ⟨hlt, hacc⟩
    refine ⟨Nat.lt_succ_of_lt hlt, ?_⟩
    rw [sampleStep_acc, List.getElem?_modify_ne _ _ (Nat.ne_of_gt hlt), hacc]
  exact kept.2

/-- Of the samples made only the first is at the position they begin at. -/
theorem runSamples_acc_first (n : Nat) (s : State) :
    (runSamples (n + 1) s).acc[s.srvPos]? = (sampleStep s).acc[s.srvPos]? := by
  simp only [runSamples]
  split
  · rfl
  · exact runSamples_acc_of_lt n (Nat.lt_succ_self s.srvPos)

/-- The end of an instruction adds nothing (R152, R153). -/
@[simp] theorem endInstr_acc (s : State) : (endInstr s).acc = s.acc := by
  simp only [endInstr]
  split <;> rfl

theorem playOn_acc (s : State) : (playOn s).acc = (runSamples (s.acc.length - s.srvPos) s).acc := by
  simp only [playOn]
  split
  · exact endInstr_acc _
  · rfl

/-- An instruction in progress makes a sample wherever the window has an element left. -/
theorem playOn_acc_first {s : State} (h : s.srvPos < s.acc.length) :
    (playOn s).acc[s.srvPos]? = (sampleStep s).acc[s.srvPos]? := by
  obtain ⟨n, hn⟩ := Nat.exists_eq_succ_of_ne_zero (Nat.sub_ne_zero_of_lt h)
  rw [playOn_acc, hn]
  exact runSamples_acc_first n s

/-! ## The first sample of an instruction -/

/-- Entering an instruction writes the served voice (R140). -/
theorem getVoice_enterInstr (code : Byte) (op : SoundOps) {s : State} (hk : s.srvVoice < s.voices.length) :
    getVoice (enterInstr code op s) s.srvVoice =
      enterVoice s.cfg code (clampOps op) (getVoice s s.srvVoice) :=
  getVoice_setVoice_self hk _

/-- Any of the ten sound instructions begins with one sample of its generator at the voice's phase position, times its
clamped start volume (R134, R146, R147). -/
theorem exec_sound_acc_first {i : Instr} {code : Byte} {op : SoundOps} (hi : i.sound = some (code, op)) {s : State}
    (hk : s.srvVoice < s.voices.length) {x : Int} (hx : s.acc[s.srvPos]? = some x) :
    ∃ t, exec i s = .next t ∧
      t.acc[s.srvPos]? =
        some (x + (waveGen s.cfg code ((getVoice s s.srvVoice).phase.toNat / 2 ^ 16 % 1024) s.noise).1 *
          (min op.startVolume.toInt.toNat 1023 : Nat) / 2 ^ (26 - s.cfg.outputBits)) := by
  refine ⟨playOn (enterInstr code op s), exec_sound hi s, ?_⟩
  have hlt : s.srvPos < s.acc.length := (List.getElem?_eq_some_iff.1 hx).1
  calc (playOn (enterInstr code op s)).acc[s.srvPos]?
      = (sampleStep (enterInstr code op s)).acc[s.srvPos]? := playOn_acc_first (s := enterInstr code op s) hlt
    _ = some (x + contribution s.cfg
          (waveGen s.cfg code (phaseIdx (getVoice s s.srvVoice).phase) s.noise).1
          (BitVec.ofNat 32 (clampVol op.startVolume * 2 ^ 16))) := by
        have hfirst := sampleStep_acc_self (s := enterInstr code op s) hx
        rwa [enterInstr_srvVoice, getVoice_enterInstr code op hk] at hfirst
    _ = _ := by
        rw [clampVol_eq_min, contribution_of_whole_volume _ _ (Nat.min_le_right _ _), phaseIdx_eq]

/-! ## The generators' codes (R92) -/

/-- TRIANGLE's ramp with its slope in front (R122). -/
theorem waveGen_triangle (c : Config) (idx : Nat) (noise : Word) :
    (waveGen c 1#8 idx noise).1 =
      if idx < 512 then 128 * (idx : Int) - 32767 else 128 * (1023 - (idx : Int)) - 32767 := by
  simp only [mul_comm (128 : Int)]
  rfl

/-- SAWTOOTH's ramp with its slope in front (R123). -/
theorem waveGen_sawtooth (c : Config) (idx : Nat) (noise : Word) :
    (waveGen c 2#8 idx noise).1 = 64 * (idx : Int) - 32767 := by
  rw [mul_comm]
  rfl

/-- The code of the square wave of each duty level selects the generator of that level (R92, R124 to R128). -/
theorem square_sound {i : Instr} {k : Nat} {op : SoundOps}
    (h : (i, k) ∈ [(Instr.square10 op, 1), (.square20 op, 2), (.square30 op, 3), (.square40 op, 4),
      (.square50 op, 5)]) :
    ∃ code, i.sound = some (code, op) ∧ ∀ c idx noise, (waveGen c code idx noise).1 = squareGen k idx := by
  simp only [List.mem_cons, List.not_mem_nil, or_false, Prod.mk.injEq] at h
  rcases h with ⟨rfl, rfl⟩ | ⟨rfl, rfl⟩ | ⟨rfl, rfl⟩ | ⟨rfl, rfl⟩ | ⟨rfl, rfl⟩ <;>
    exact ⟨_, rfl, fun _ _ _ => rfl⟩

end Sys2Proof.Machine
end

section
/-! The statements about the first samples of TRIANGLE, SAWTOOTH and the square waves. -/

namespace Sys2Proof.Proofs

open Sys2Proof.Machine

/-- Settles O9: the first sample of any sound instruction, with TRIANGLE's generator in it. -/
theorem triangleAddsItsFirstSample : Obligations.TriangleAddsItsFirstSample := by
  intro s op x _ hk hx idx amp
  have hfirst := exec_sound_acc_first (i := .triangle op) rfl hk hx
  rwa [waveGen_triangle] at hfirst

/-- Settles O10: the first sample of any sound instruction, with SAWTOOTH's generator in it. -/
theorem sawtoothAddsItsFirstSample : Obligations.SawtoothAddsItsFirstSample := by
  intro s op x _ hk hx idx
  have hfirst := exec_sound_acc_first (i := .sawtooth op) rfl hk hx
  rwa [waveGen_sawtooth] at hfirst

/-- Settles O12: the first sample of any sound instruction, with the generator of the duty level in it. -/
theorem squaresAddTheirFirstSample : Obligations.SquaresAddTheirFirstSample := by
  intro s op x i k _ hk hx hi idx amp
  obtain ⟨code, hsound, hgen⟩ := square_sound hi
  have hfirst := exec_sound_acc_first hsound hk hx
  rwa [hgen] at hfirst

end Sys2Proof.Proofs
end

section
/-! The statement about the commands of the dead engine. -/

namespace Sys2Proof.Proofs

open Sys2Proof.Machine

/-- Settles O42: the three commands test G.FAULT first, on the operands of the registers or on abstract ones, and a
reserved word runs none of them. -/
theorem deadEngineIgnoresEveryCommand : Obligations.DeadEngineIgnoresEveryCommand := by
  intro s hs
  have hplay : exec .play s = .next s := playCommand_dead hs (playDelay s) (playBase s) (playLen s)
  have hstop : exec .stop s = .next s := stopCommand_dead hs
  have hrender : exec .render s = .next s := renderCommand_dead hs (renderDst s) (renderCount s)
  have hreserved (w : Word) : exec (.cmdReserved w) s = .next s := rfl
  exact ⟨hplay, hstop, hrender, hreserved, runCommand_dead hs⟩

end Sys2Proof.Proofs
end


section
/-! SUPPORT. The two encodings and their decoders are inverse to each other: fields of two bytes, the selected
instruction, and the two spaces (R61, R90 to R93, R98, R99). -/

namespace Sys2Proof.Machine

/-! ## Fields of two and four bytes (R61) -/

/-- The two bytes of a halfword make it again. -/
theorem le16_bytes (h : Half) : le16 (h.extractLsb' 0 8) (h.extractLsb' 8 8) = h := by
  refine BitVec.eq_of_getLsbD_eq fun i hi => ?_
  simp only [le16, BitVec.getLsbD_append, BitVec.getLsbD_extractLsb']
  grind

/-- A halfword made of two bytes has these bytes. -/
theorem bytesOfHalf_le16 (lo hi : Byte) : bytesOfHalf (le16 lo hi) = [lo, hi] := by
  have hlo : (le16 lo hi).extractLsb' 0 8 = lo := by
    refine BitVec.eq_of_getLsbD_eq fun i hi => ?_
    simp only [le16, BitVec.getLsbD_append, BitVec.getLsbD_extractLsb']
    grind
  have hhi : (le16 lo hi).extractLsb' 8 8 = hi := by
    refine BitVec.eq_of_getLsbD_eq fun i hi => ?_
    simp only [le16, BitVec.getLsbD_append, BitVec.getLsbD_extractLsb']
    grind
  rw [bytesOfHalf, hlo, hhi]

/-- A word made of four bytes has these bytes. -/
theorem bytesOfWord_le32 (b0 b1 b2 b3 : Byte) : bytesOfWord (le32 b0 b1 b2 b3) = [b0, b1, b2, b3] := by
  have hbyte : ∀ n ∈ [(0, b0), (8, b1), (16, b2), (24, b3)], (le32 b0 b1 b2 b3).extractLsb' n.1 8 = n.2 := by
    simp only [List.forall_mem_cons, List.not_mem_nil, false_imp_iff, implies_true, and_true]
    refine ⟨?_, ?_, ?_, ?_⟩ <;>
    · refine BitVec.eq_of_getLsbD_eq fun i hi => ?_
      simp only [le32, BitVec.getLsbD_append, BitVec.getLsbD_extractLsb']
      grind
  simp only [List.forall_mem_cons, List.not_mem_nil, false_imp_iff, implies_true, and_true] at hbyte
  obtain ⟨h0, h1, h2, h3⟩ := hbyte
  rw [bytesOfWord, h0, h1, h2, h3]

/-! ## Sound instructions (R90, R92, R93) -/

/-- A well-formed sound instruction is the one its code selects: `silence` holds no code of another. -/
theorem soundInstr_of_sound {i : Instr} {code : Byte} {op : SoundOps} (h : i.sound = some (code, op))
    (hw : WellFormed i = true) : soundInstr code op = i := by
  cases i with
  | silence c o =>
    simp only [Instr.sound, Option.some.injEq, Prod.mk.injEq] at h
    obtain ⟨rfl, rfl⟩ := h
    simp only [WellFormed, namedWaveCode, Bool.not_eq_true', Bool.or_eq_false_iff, beq_eq_false_iff_ne] at hw
    simp [soundInstr, hw]
  | play | stop | render | cmdReserved => cases h
  | _ =>
    simp only [Instr.sound, Option.some.injEq, Prod.mk.injEq] at h
    obtain ⟨rfl, rfl⟩ := h
    rfl

theorem encode_of_sound {i : Instr} {code : Byte} {op : SoundOps} (h : i.sound = some (code, op)) :
    encode i = encodeSound code op := by
  cases i with
  | play | stop | render | cmdReserved => cases h
  | _ =>
    simp only [Instr.sound, Option.some.injEq, Prod.mk.injEq] at h
    obtain ⟨rfl, rfl⟩ := h
    rfl

/-- What a code selects is well-formed: the last choice is left for the codes with no name. -/
theorem wellFormed_soundInstr (code : Byte) (op : SoundOps) : WellFormed (soundInstr code op) = true := by
  simp only [soundInstr]
  split_ifs <;> simp_all [WellFormed, namedWaveCode]

theorem decode_encodeSound (code : Byte) (op : SoundOps) (rest : List Byte) :
    decode .program (encodeSound code op ++ rest) = .ok (soundInstr code op) rest := by
  simp [encodeSound, bytesOfHalf, decode, decodeSound, le16_bytes]

/-- A program's first instruction, decoded, is twelve bytes that encode to themselves. -/
theorem decode_program_bytes {bs rest : List Byte} {i : Instr} (h : decode .program bs = .ok i rest) :
    ∃ code op, i = soundInstr code op ∧ encodeSound code op ++ rest = bs := by
  simp only [decode] at h
  unfold decodeSound at h
  split at h
  · injection h with hi hr
    refine ⟨_, _, hi.symm, ?_⟩
    simp [encodeSound, bytesOfHalf_le16, hr]
  · cases h

/-! ## Commands (R98, R99) -/

/-- A well-formed command is the one its word selects: `cmdReserved` holds no named word. -/
theorem command_word {i : Instr} (h : i.sound = none) (hw : WellFormed i = true) :
    i.space = .command ∧ ∃ w, encode i = bytesOfWord w ∧ commandInstr w = i := by
  cases i with
  | play | stop | render => exact ⟨rfl, _, rfl, rfl⟩
  | cmdReserved w =>
    simp only [WellFormed, namedCommand, Bool.not_eq_true', Bool.or_eq_false_iff, beq_eq_false_iff_ne] at hw
    exact ⟨rfl, w, rfl, by simp [commandInstr, hw]⟩
  | _ => cases h

/-- What a word selects is a well-formed command with that word for its encoding. -/
theorem commandInstr_word (w : Word) :
    WellFormed (commandInstr w) = true ∧ (commandInstr w).space = .command ∧
    encode (commandInstr w) = bytesOfWord w := by
  simp only [commandInstr]
  split_ifs <;> simp_all [WellFormed, namedCommand, Instr.space, encode]

theorem decode_bytesOfWord_append (w : Word) (rest : List Byte) :
    decode .command (bytesOfWord w ++ rest) = .ok (commandInstr w) rest := by
  simp [bytesOfWord, decode, decodeCommand, le32_bytes]

/-- A command, decoded, is four bytes: those of the word that selects it. -/
theorem decode_command_bytes {bs rest : List Byte} {i : Instr} (h : decode .command bs = .ok i rest) :
    ∃ w, i = commandInstr w ∧ bytesOfWord w ++ rest = bs := by
  simp only [decode] at h
  unfold decodeCommand at h
  split at h
  · injection h with hi hr
    exact ⟨_, hi.symm, by simp [bytesOfWord_le32, hr]⟩
  · cases h

end Sys2Proof.Machine
end

section
/-! The statements about encoding and decoding. -/

namespace Sys2Proof.Proofs

open Sys2Proof.Machine

/-- Settles O1: a sound instruction goes through its code and operands, a command through its word. -/
theorem decodeOfEncodeIsTheInstruction : Obligations.DecodeOfEncodeIsTheInstruction := by
  intro i rest hw
  cases hs : i.sound with
  | some p =>
    obtain ⟨code, op⟩ := p
    rw [space_of_sound hs, encode_of_sound hs, decode_encodeSound, soundInstr_of_sound hs hw]
  | none =>
    obtain ⟨hspace, w, henc, hw⟩ := command_word hs hw
    rw [hspace, henc, decode_bytesOfWord_append, hw]

/-- Settles O2: both decoders keep every bit of what they read. -/
theorem encodeOfDecodeIsTheBytes : Obligations.EncodeOfDecodeIsTheBytes := by
  intro sp bs rest i h
  cases sp with
  | program =>
    obtain ⟨code, op, rfl, hbs⟩ := decode_program_bytes h
    have hs := soundInstr_sound code op
    exact ⟨wellFormed_soundInstr code op, space_of_sound hs, by rw [encode_of_sound hs, hbs]⟩
  | command =>
    obtain ⟨w, rfl, hbs⟩ := decode_command_bytes h
    obtain ⟨hwf, hspace, henc⟩ := commandInstr_word w
    exact ⟨hwf, hspace, by rw [henc, hbs]⟩

/-- Settles O3: the decoder computes on each of the seven byte strings. -/
theorem writtenOutBytesDecode : Obligations.WrittenOutBytesDecode := by
  unfold Obligations.WrittenOutBytesDecode
  decide

end Sys2Proof.Proofs
end


section
/-! SUPPORT. The arithmetic of the datapath: the noise step (R129), the generators' range (R120), the envelope multiplier
(R147) and the two ramps (R143, R145). -/

namespace Sys2Proof.Machine

/-! ## The noise step (R129) -/

/-- A word that a shift to the left leaves as it is has no bit: every bit is pushed out in the end. -/
theorem eq_zero_of_shiftLeft_eq {z : Word} {k : Nat} (hk : 0 < k) (h : z <<< k = z) : z = 0#32 := by
  have hrepeat : ∀ n : Nat, z <<< (n * k) = z := by
    intro n
    induction n with
    | zero => simp
    | succ n ih => rw [Nat.succ_mul, BitVec.shiftLeft_add, ih, h]
  rw [← hrepeat 32]
  exact BitVec.shiftLeft_eq_zero (by omega)

theorem eq_zero_of_ushiftRight_eq {z : Word} {k : Nat} (hk : 0 < k) (h : z >>> k = z) : z = 0#32 := by
  have hrepeat : ∀ n : Nat, z >>> (n * k) = z := by
    intro n
    induction n with
    | zero => simp
    | succ n ih => rw [Nat.succ_mul, BitVec.shiftRight_add, ih, h]
  rw [← hrepeat 32]
  exact BitVec.ushiftRight_eq_zero (by omega)

theorem xor_eq_xor_swap {a b c d : Word} (h : a ^^^ b = c ^^^ d) : b ^^^ d = a ^^^ c :=
  calc b ^^^ d = a ^^^ (a ^^^ b) ^^^ d := by simp
    _ = a ^^^ c := by simp [h, BitVec.xor_assoc]

/-- Adding to a word its own shift is one-to-one: the difference of two words of one image is its own shift. -/
theorem xor_shiftLeft_injective {k : Nat} (hk : 0 < k) : Function.Injective fun x : Word => x ^^^ (x <<< k) := by
  intro x y h
  have hz : (x ^^^ y) <<< k = x ^^^ y := by
    rw [BitVec.shiftLeft_xor_distrib]
    exact xor_eq_xor_swap h
  exact BitVec.xor_eq_zero_iff.1 (eq_zero_of_shiftLeft_eq hk hz)

theorem xor_ushiftRight_injective {k : Nat} (hk : 0 < k) : Function.Injective fun x : Word => x ^^^ (x >>> k) := by
  intro x y h
  have hz : (x ^^^ y) >>> k = x ^^^ y := by
    rw [BitVec.ushiftRight_xor_distrib]
    exact xor_eq_xor_swap h
  exact BitVec.xor_eq_zero_iff.1 (eq_zero_of_ushiftRight_eq hk hz)

theorem noiseStep_injective : Function.Injective noiseStep :=
  (xor_shiftLeft_injective (k := 5) (by decide)).comp
    ((xor_ushiftRight_injective (k := 17) (by decide)).comp (xor_shiftLeft_injective (k := 13) (by decide)))

theorem noiseStep_zero : noiseStep 0#32 = 0#32 := by decide

/-- A live noise state never dies (R22). -/
theorem noiseStep_ne_zero {x : Word} (h : x ≠ 0#32) : noiseStep x ≠ 0#32 := fun h0 =>
  h (noiseStep_injective (h0.trans noiseStep_zero.symm))

/-! ## The generators (R120) -/

theorem romEntry_le (c : Config) (q : Nat) : romEntry c q ≤ 32767 := by
  have := (c.sineRom.toList.getD q 0#15).isLt
  rw [romEntry]
  omega

/-- The amplitude of each generator but NOISE, and that it draws nothing. -/
theorem waveGen_range {c : Config} {code : Byte} {idx : Nat} {noise : Word} (hidx : idx < 1024) (hcode : code ≠ 5#8) :
    -32767 ≤ (waveGen c code idx noise).1 ∧ (waveGen c code idx noise).1 ≤ 32767 ∧
    (waveGen c code idx noise).2 = noise := by
  have htriangle : -32767 ≤ triangleGen idx ∧ triangleGen idx ≤ 32767 := by
    rw [triangleGen]; split_ifs <;> omega
  have hsawtooth : -32767 ≤ sawtoothGen idx ∧ sawtoothGen idx ≤ 32767 := by
    rw [sawtoothGen]; omega
  have hsine : -32767 ≤ sineGen c idx ∧ sineGen c idx ≤ 32767 := by
    obtain ⟨q, hq⟩ : ∃ q, sineGen c idx = if 512 ≤ idx then -(romEntry c q : Int) else romEntry c q := ⟨_, rfl⟩
    have := romEntry_le c q
    split_ifs at hq <;> omega
  have hsquare : ∀ k, -32767 ≤ squareGen k idx ∧ squareGen k idx ≤ 32767 := by
    intro k; rw [squareGen]; split_ifs <;> omega
  simp only [waveGen, if_neg hcode]
  split_ifs
  all_goals simp [htriangle, hsawtooth, hsine, hsquare]

theorem noiseAmp_range (x : Word) : -32767 ≤ noiseAmp x ∧ noiseAmp x ≤ 32768 := by
  have := (x.extractLsb' 0 16).isLt
  rw [noiseAmp]
  omega

theorem waveGen_noise (c : Config) (idx : Nat) (noise : Word) :
    waveGen c 5#8 idx noise = (noiseAmp (noiseStep noise), noiseStep noise) := rfl

/-- Only NOISE draws from the stream (R120, R129). -/
theorem waveGen_draws (c : Config) (code : Byte) (idx : Nat) (noise : Word) :
    (waveGen c code idx noise).2 = if code = 5#8 then noiseStep noise else noise := by
  simp only [waveGen]
  split_ifs <;> simp_all

/-- An amplitude that is not NOISE's does not depend on the stream. -/
theorem waveGen_amp_congr {code : Byte} (hcode : code ≠ 5#8) (c : Config) (idx : Nat) (x y : Word) :
    (waveGen c code idx x).1 = (waveGen c code idx y).1 := by
  simp only [waveGen, if_neg hcode]
  split_ifs <;> rfl

/-! ## The envelope multiplier (R147) -/

/-- The product lies in 2^25 on either side of 0, and the shift leaves OUTPUT_BITS - 1 bits of it. -/
theorem contribution_range {c : Config} (hc : c.Legal) {amp : Int} {vol : Word} (ha : -32767 ≤ amp) (ha' : amp ≤ 32768)
    (hv : 0 ≤ vol.toInt) (hv' : vol.toInt ≤ 1023 * 2 ^ 16) :
    -(2 ^ (c.outputBits - 1)) ≤ contribution c amp vol ∧ contribution c amp vol ≤ 2 ^ (c.outputBits - 1) - 1 := by
  obtain ⟨-, -, hbits, hbits', -⟩ := hc
  have hv0 : 0 ≤ vol.toInt / 2 ^ 16 ∧ vol.toInt / 2 ^ 16 ≤ 1023 := by omega
  have hprod : -2 ^ 25 ≤ amp * (vol.toInt / 2 ^ 16) ∧ amp * (vol.toInt / 2 ^ 16) < 2 ^ 25 := by
    obtain ⟨h0, h1⟩ := hv0
    generalize vol.toInt / 2 ^ 16 = v at h0 h1
    exact ⟨by nlinarith, by nlinarith⟩
  have hsplit : (2 : Int) ^ (c.outputBits - 1) * 2 ^ (26 - c.outputBits) = 2 ^ 25 := by
    rw [← pow_add, show c.outputBits - 1 + (26 - c.outputBits) = 25 by omega]
  have hpos : (0 : Int) < 2 ^ (26 - c.outputBits) := by positivity
  rw [contribution_eq_div, Int.le_sub_one_iff]
  exact ⟨(Int.le_ediv_iff_mul_le hpos).2 (by rw [neg_mul, hsplit]; exact hprod.1),
    (Int.ediv_lt_iff_lt_mul hpos).2 (by rw [hsplit]; exact hprod.2)⟩

/-! ## The ramps (R143, R145) -/

/-- A step of the truncated quotient, taken no more often than it was divided by, does not pass the whole. -/
theorem mul_tdiv_within (d : Int) {j n : Nat} (hj : j ≤ n) :
    min 0 d ≤ (j : Int) * d.tdiv n ∧ (j : Int) * d.tdiv n ≤ max 0 d := by
  have hnat (e : Nat) : (j : Int) * ((e / n : Nat) : Int) ≤ e := by
    exact_mod_cast (Nat.mul_le_mul_right _ hj).trans (Nat.mul_div_le e n)
  have hnonneg (e : Nat) : 0 ≤ (j : Int) * ((e / n : Nat) : Int) := by positivity
  obtain ⟨e, rfl | rfl⟩ := Int.eq_nat_or_neg d
  · have := hnat e
    have := hnonneg e
    rw [← Int.ofNat_tdiv]
    omega
  · have := hnat e
    have := hnonneg e
    rw [Int.neg_tdiv, ← Int.ofNat_tdiv, mul_neg]
    omega

/-- VOL of an instruction stays between its start and its end volume (R143). -/
theorem volume_ramp_within (c : Config) (o : Clamped) {j : Nat} (hj : j ≤ sampleCount c o.d) :
    min ((o.sv : Int) * 2 ^ 16) ((o.ev : Int) * 2 ^ 16) ≤ (o.sv : Int) * 2 ^ 16 + (j : Int) * volumeStep c o ∧
    (o.sv : Int) * 2 ^ 16 + (j : Int) * volumeStep c o ≤ max ((o.sv : Int) * 2 ^ 16) ((o.ev : Int) * 2 ^ 16) := by
  have := mul_tdiv_within (((o.ev : Int) - (o.sv : Int)) * 2 ^ 16) hj
  rw [volumeStep]
  omega

/-- TSTEP of an instruction stays between its start and its end tone step (R145). -/
theorem tone_ramp_within (c : Config) (o : Clamped) {j : Nat} (hj : j ≤ sampleCount c o.d) :
    min (tonestep c o.f : Int) (tonestep c o.ef) ≤ (tonestep c o.f : Int) + (j : Int) * toneDelta c o ∧
    (tonestep c o.f : Int) + (j : Int) * toneDelta c o ≤ max (tonestep c o.f : Int) (tonestep c o.ef) := by
  have := mul_tdiv_within ((tonestep c o.ef : Int) - (tonestep c o.f : Int)) hj
  rw [toneDelta]
  split_ifs with h
  · rw [h]; omega
  · omega

end Sys2Proof.Machine
end

section
/-! The statements about the datapath and the generators. -/

namespace Sys2Proof.Proofs

open Sys2Proof.Machine

/-- Settles O18: each of the three steps is a shift added to the word, and each is one-to-one. -/
theorem noiseStepIsXorshiftAndOneToOne : Obligations.NoiseStepIsXorshiftAndOneToOne := by
  refine ⟨fun x => ?_, noiseStep_injective, noiseStep_zero, by decide, by decide, by decide⟩
  simp only [noiseStep, BitVec.toNat_xor, BitVec.toNat_shiftLeft, BitVec.toNat_ushiftRight, Nat.shiftLeft_eq,
    Nat.shiftRight_eq_div_pow]

/-- Settles O19: NOISE from the low 16 bits of its state, the others from their own formulas. -/
theorem generatorsStayInRange : Obligations.GeneratorsStayInRange := by
  intro c code idx noise hidx
  by_cases hcode : code = 5#8
  · subst hcode
    obtain ⟨hlo, hhi⟩ := noiseAmp_range (noiseStep noise)
    exact ⟨hlo, hhi, fun h => absurd rfl h⟩
  · obtain ⟨hlo, hhi, hnoise⟩ := waveGen_range (c := c) (noise := noise) hidx hcode
    exact ⟨hlo, by omega, fun _ => ⟨hhi, hnoise⟩⟩

/-- Settles O20: the bound of the product, divided by the power of two the multiplier shifts by. -/
theorem contributionFitsTheOutputDepth : Obligations.ContributionFitsTheOutputDepth :=
  fun _ _ _ hc ha ha' hv hv' => contribution_range hc ha ha' hv hv'

/-- Settles O21: truncating division never overshoots, for the volume and for the tone step. -/
theorem rampsNeverPassTheirEnd : Obligations.RampsNeverPassTheirEnd := by
  intro c op j _ hj o
  obtain ⟨hvol, hvol'⟩ := volume_ramp_within c o hj
  obtain ⟨htone, htone'⟩ := tone_ramp_within c o hj
  exact ⟨hvol, hvol', htone, htone'⟩

end Sys2Proof.Proofs
end


section
/-! SUPPORT. Operands and ramps as words: the clamped operands' bounds (R95), and the registers of a voice after some
samples in closed form (R148 to R151). -/

namespace Sys2Proof.Machine

/-! ## Bounds of the operands and of what is made of them (R95, R141 to R145) -/

theorem clampVol_le (h : Half) : clampVol h ≤ 1023 := by
  rw [clampVol_eq_min]
  exact Nat.min_le_right _ _

theorem clampFreq_range (h : Half) : 20 ≤ clampFreq h ∧ clampFreq h ≤ 20000 := by
  simp only [clampFreq, clampInt]
  split_ifs <;> omega

theorem clampDur_range (h : Half) : 1 ≤ clampDur h ∧ clampDur h ≤ 60000 := by
  simp only [clampDur, clampInt]
  split_ifs <;> omega

theorem sampleCount_pos (c : Config) (d : Nat) : 1 ≤ sampleCount c d := Nat.le_max_left _ _

/-- A minute at the highest rate (R157). -/
theorem sampleCount_le {c : Config} (hc : c.Legal) (op : SoundOps) : sampleCount c (clampOps op).d ≤ 60000000 := by
  have hd : (clampOps op).d * c.sampleRate ≤ 60000 * 1000000 :=
    Nat.mul_le_mul (clampDur_range op.duration).2 hc.2.1
  have : ms2s c (clampOps op).d ≤ 60000000 := by rw [ms2s]; omega
  exact max_le (by decide) this

theorem tonestep_mono (c : Config) {x y : Nat} (h : x ≤ y) : tonestep c x ≤ tonestep c y :=
  Nat.div_le_div_right (Nat.mul_le_mul_right _ h)

/-- The tone steps of the two ends of the frequency range (R157). -/
theorem tonestep_range {c : Config} (hc : c.Legal) : 1342 ≤ tonestep c 20 ∧ tonestep c 20000 ≤ 2097152000 := by
  obtain ⟨hlo, hhi, -⟩ := hc
  constructor
  · exact (Nat.le_div_iff_mul_le (by omega)).2 (by omega)
  · exact Nat.div_le_of_le_mul (by omega)

theorem tonestep_clamped (c : Config) (h : Half) :
    tonestep c 20 ≤ tonestep c (clampFreq h) ∧ tonestep c (clampFreq h) ≤ tonestep c 20000 :=
  ⟨tonestep_mono c (clampFreq_range h).1, tonestep_mono c (clampFreq_range h).2⟩

/-- VOL at every sample of an instruction (R157). -/
theorem volume_ramp_range (c : Config) (op : SoundOps) {j : Nat} (hj : j ≤ sampleCount c (clampOps op).d) :
    0 ≤ ((clampOps op).sv : Int) * 2 ^ 16 + (j : Int) * volumeStep c (clampOps op) ∧
    ((clampOps op).sv : Int) * 2 ^ 16 + (j : Int) * volumeStep c (clampOps op) ≤ 1023 * 2 ^ 16 := by
  have hramp := volume_ramp_within c (clampOps op) hj
  have hsv : (clampOps op).sv ≤ 1023 := clampVol_le op.startVolume
  have hev : (clampOps op).ev ≤ 1023 := clampVol_le op.endVolume
  omega

/-- TSTEP at every sample of an instruction (R157). -/
theorem tone_ramp_range (c : Config) (op : SoundOps) {j : Nat} (hj : j ≤ sampleCount c (clampOps op).d) :
    (tonestep c 20 : Int) ≤ (tonestep c (clampOps op).f : Int) + (j : Int) * toneDelta c (clampOps op) ∧
    (tonestep c (clampOps op).f : Int) + (j : Int) * toneDelta c (clampOps op) ≤ tonestep c 20000 := by
  have hramp := tone_ramp_within c (clampOps op) hj
  have hf : tonestep c 20 ≤ tonestep c (clampOps op).f ∧ tonestep c (clampOps op).f ≤ tonestep c 20000 :=
    tonestep_clamped c op.frequency
  have hef : tonestep c 20 ≤ tonestep c (clampOps op).ef ∧ tonestep c (clampOps op).ef ≤ tonestep c 20000 :=
    tonestep_clamped c op.endFrequency
  omega

/-- One step of a ramp is the difference of its values at two samples. -/
theorem volumeStep_range (c : Config) (op : SoundOps) :
    -(1023 * 2 ^ 16) ≤ volumeStep c (clampOps op) ∧ volumeStep c (clampOps op) ≤ 1023 * 2 ^ 16 := by
  have h0 := volume_ramp_range c op (Nat.zero_le (sampleCount c (clampOps op).d))
  have h1 := volume_ramp_range c op (sampleCount_pos c (clampOps op).d)
  omega

theorem toneDelta_range {c : Config} (hc : c.Legal) (op : SoundOps) :
    -2097152000 ≤ toneDelta c (clampOps op) ∧ toneDelta c (clampOps op) ≤ 2097152000 := by
  have h0 := tone_ramp_range c op (Nat.zero_le (sampleCount c (clampOps op).d))
  have h1 := tone_ramp_range c op (sampleCount_pos c (clampOps op).d)
  have hc := tonestep_range hc
  omega

/-! ## Signed words -/

theorem toInt_ofInt_word {x : Int} (h : -2 ^ 31 ≤ x) (h' : x < 2 ^ 31) : (BitVec.ofInt 32 x).toInt = x := by
  rw [BitVec.toInt_ofInt, Int.bmod_eq_of_le] <;> omega

theorem toInt_volumeStep (c : Config) (op : SoundOps) :
    (BitVec.ofInt 32 (volumeStep c (clampOps op))).toInt = volumeStep c (clampOps op) := by
  have := volumeStep_range c op
  exact toInt_ofInt_word (by omega) (by omega)

theorem toInt_toneDelta {c : Config} (hc : c.Legal) (op : SoundOps) :
    (BitVec.ofInt 32 (toneDelta c (clampOps op))).toInt = toneDelta c (clampOps op) := by
  have := toneDelta_range hc op
  exact toInt_ofInt_word (by omega) (by omega)

/-- A register that adds the same word at each step is a ramp in the integers, taken into the word. -/
theorem ofNat_add_mul_ofInt (a m : Nat) (d : Int) :
    BitVec.ofNat 32 a + BitVec.ofNat 32 m * BitVec.ofInt 32 d = BitVec.ofInt 32 ((a : Int) + (m : Int) * d) := by
  rw [BitVec.ofInt_add, BitVec.ofInt_mul, BitVec.ofInt_natCast, BitVec.ofInt_natCast]

/-- The volume ramp, taken into the word, is what it was (R30). -/
theorem toInt_volume_ramp {a m : Nat} {d : Int} (h : 0 ≤ (a : Int) * 2 ^ 16 + (m : Int) * d)
    (h' : (a : Int) * 2 ^ 16 + (m : Int) * d ≤ 1023 * 2 ^ 16) :
    (BitVec.ofNat 32 (a * 2 ^ 16) + BitVec.ofNat 32 m * BitVec.ofInt 32 d).toInt =
      (a : Int) * 2 ^ 16 + (m : Int) * d := by
  have hcast : ((a * 2 ^ 16 : Nat) : Int) = (a : Int) * 2 ^ 16 := by norm_num
  rw [ofNat_add_mul_ofInt, hcast]
  exact toInt_ofInt_word (by omega) (by omega)

/-! ## The registers after `m` samples (R148 to R151) -/

theorem advanceVoice_iterate_keeps (m : Nat) (v : Voice) :
    (advanceVoice^[m] v).req = v.req ∧ (advanceVoice^[m] v).start = v.start ∧ (advanceVoice^[m] v).cur = v.cur ∧
    (advanceVoice^[m] v).endIdx = v.endIdx ∧ (advanceVoice^[m] v).cv = v.cv ∧
    (advanceVoice^[m] v).tdelta = v.tdelta ∧ (advanceVoice^[m] v).vstep = v.vstep ∧
    (advanceVoice^[m] v).wave = v.wave := by
  induction m with
  | zero => simp
  | succ m ih =>
    rw [Function.iterate_succ_apply']
    exact ih

theorem advanceVoice_iterate_wave (m : Nat) (v : Voice) : (advanceVoice^[m] v).wave = v.wave :=
  (advanceVoice_iterate_keeps m v).2.2.2.2.2.2.2

theorem advanceVoice_iterate_sleft (m : Nat) (v : Voice) :
    (advanceVoice^[m] v).sleft = v.sleft - BitVec.ofNat 32 m := by
  induction m with
  | zero => simp
  | succ m ih => rw [Function.iterate_succ_apply', advanceVoice_sleft, ih, BitVec.ofNat_add, sub_sub]

theorem advanceVoice_iterate_vol (m : Nat) (v : Voice) :
    (advanceVoice^[m] v).vol = v.vol + BitVec.ofNat 32 m * v.vstep := by
  induction m with
  | zero => simp
  | succ m ih =>
    obtain ⟨-, -, -, -, -, -, hvstep, -⟩ := advanceVoice_iterate_keeps m v
    rw [Function.iterate_succ_apply', advanceVoice_vol, ih, hvstep, BitVec.ofNat_add, add_mul, add_assoc]
    simp

theorem advanceVoice_iterate_tstep (m : Nat) (v : Voice) :
    (advanceVoice^[m] v).tstep = v.tstep + BitVec.ofNat 32 m * v.tdelta := by
  induction m with
  | zero => simp
  | succ m ih =>
    obtain ⟨-, -, -, -, -, htdelta, -, -⟩ := advanceVoice_iterate_keeps m v
    rw [Function.iterate_succ_apply', advanceVoice_tstep, ih, htdelta, BitVec.ofNat_add, add_mul, add_assoc]
    simp

/-- The phase has added every step so far, each with its share of the tone ramp. -/
theorem advanceVoice_iterate_phase (m : Nat) (v : Voice) :
    (advanceVoice^[m] v).phase =
      v.phase + (BitVec.ofNat 32 m * v.tstep + BitVec.ofNat 32 (m * (m - 1) / 2) * v.tdelta) := by
  induction m with
  | zero => simp
  | succ m ih =>
    have htriangular : (m + 1) * m / 2 = m * (m - 1) / 2 + m := Nat.triangle_succ m
    rw [Function.iterate_succ_apply', advanceVoice_phase, ih, advanceVoice_iterate_tstep, Nat.add_sub_cancel,
      htriangular, BitVec.ofNat_add, BitVec.ofNat_add, add_mul, add_mul]
    rw [show 1#32 * v.tstep = v.tstep from one_mul v.tstep]
    ac_rfl

/-- SLEFT counts down without wrapping as long as it lasts. -/
theorem advanceVoice_iterate_sleft_toNat {m : Nat} {v : Voice} (h : m ≤ v.sleft.toNat) :
    (advanceVoice^[m] v).sleft.toNat = v.sleft.toNat - m := by
  rw [advanceVoice_iterate_sleft]
  have := v.sleft.isLt
  simp only [BitVec.toNat_sub, BitVec.toNat_ofNat]
  omega

/-! ## The same for a voice that has entered an instruction (R140) -/

theorem enterVoice_iterate_vol (c : Config) (code : Byte) (op : SoundOps) (v : Voice) {m : Nat}
    (hm : m ≤ sampleCount c (clampOps op).d) :
    (advanceVoice^[m] (enterVoice c code (clampOps op) v)).vol.toInt =
      ((clampOps op).sv : Int) * 2 ^ 16 + (m : Int) * volumeStep c (clampOps op) := by
  have hramp := volume_ramp_range c op hm
  rw [advanceVoice_iterate_vol, enterVoice_vol, enterVoice_vstep]
  exact toInt_volume_ramp hramp.1 hramp.2

theorem enterVoice_iterate_tstep (c : Config) (code : Byte) (o : Clamped) (v : Voice) (m : Nat) :
    (advanceVoice^[m] (enterVoice c code o v)).tstep =
      BitVec.ofInt 32 ((tonestep c o.f : Int) + (m : Int) * toneDelta c o) := by
  rw [advanceVoice_iterate_tstep, enterVoice_tstep, enterVoice_tdelta, ofNat_add_mul_ofInt]

theorem enterVoice_iterate_phase (c : Config) (code : Byte) (o : Clamped) (v : Voice) (m : Nat) :
    (advanceVoice^[m] (enterVoice c code o v)).phase = phaseAfter c o v.phase m := by
  rw [advanceVoice_iterate_phase, enterVoice_phase, enterVoice_tstep, enterVoice_tdelta, phaseAfter,
    BitVec.ofInt_add, BitVec.ofInt_mul, BitVec.ofInt_mul, BitVec.ofInt_natCast, BitVec.ofInt_natCast,
    BitVec.ofInt_natCast]

theorem enterVoice_sleft_toNat {c : Config} (hc : c.Legal) (code : Byte) (op : SoundOps) (v : Voice) :
    (enterVoice c code (clampOps op) v).sleft.toNat = sampleCount c (clampOps op).d := by
  have := sampleCount_le hc op
  rw [enterVoice_sleft, BitVec.toNat_ofNat]
  omega

end Sys2Proof.Machine
end

section
/-! SUPPORT. A sound instruction in closed form: the samples it makes (R146 to R152), and what is left where they end
(R153, R155). -/

namespace Sys2Proof.Machine

/-! ## `m` samples in a row -/

/-- Samples write the served voice, G.NOISE, ACC and the window position, and nothing else. -/
theorem sampleStep_iterate_frame (m : Nat) (s : State) :
    sampleStep^[m] s = { s with
      voices := s.voices.set s.srvVoice (advanceVoice^[m] (getVoice s s.srvVoice))
      noise  := (sampleStep^[m] s).noise
      acc    := (sampleStep^[m] s).acc
      srvPos := s.srvPos + m } := by
  induction m with
  | zero =>
    by_cases hk : s.srvVoice < s.voices.length
    · simp [getVoice, List.getD_eq_getElem?_getD, hk]
    · simp [List.set_eq_of_length_le (Nat.le_of_not_lt hk)]
  | succ m ih =>
    have hvoice : (sampleStep^[m] s).voices.set s.srvVoice
        (advanceVoice (getVoice (sampleStep^[m] s) s.srvVoice)) =
          s.voices.set s.srvVoice (advanceVoice^[m + 1] (getVoice s s.srvVoice)) := by
      by_cases hk : s.srvVoice < s.voices.length
      · rw [ih, Function.iterate_succ_apply']
        simp [getVoice, hk]
      · rw [List.set_eq_of_length_le (Nat.le_of_not_lt hk), ih]
        simp [List.set_eq_of_length_le (Nat.le_of_not_lt hk)]
    rw [Function.iterate_succ_apply', ← hvoice]
    conv_lhs => rw [sampleStep]
    rw [ih]
    rfl

theorem sampleStep_iterate_srvVoice (m : Nat) (s : State) : (sampleStep^[m] s).srvVoice = s.srvVoice := by
  rw [sampleStep_iterate_frame]

theorem sampleStep_iterate_cfg (m : Nat) (s : State) : (sampleStep^[m] s).cfg = s.cfg := by
  rw [sampleStep_iterate_frame]

theorem sampleStep_iterate_srvPos (m : Nat) (s : State) : (sampleStep^[m] s).srvPos = s.srvPos + m := by
  rw [sampleStep_iterate_frame]

theorem getVoice_sampleStep_iterate (m : Nat) {s : State} (hk : s.srvVoice < s.voices.length) :
    getVoice (sampleStep^[m] s) s.srvVoice = advanceVoice^[m] (getVoice s s.srvVoice) := by
  rw [sampleStep_iterate_frame]
  exact getVoice_setVoice_self hk _

theorem noiseAfter_succ (n : Nat) (x : Word) : noiseAfter (n + 1) x = noiseStep (noiseAfter n x) := by
  induction n generalizing x with
  | zero => rfl
  | succ n ih => exact ih (noiseStep x)

/-- One draw per sample of NOISE, none of any other waveform (R129). -/
theorem sampleStep_iterate_noise (m : Nat) {s : State} (hk : s.srvVoice < s.voices.length) :
    (sampleStep^[m] s).noise =
      if (getVoice s s.srvVoice).wave = 5#8 then noiseAfter m s.noise else s.noise := by
  induction m with
  | zero => simp [noiseAfter]
  | succ m ih =>
    rw [Function.iterate_succ_apply', sampleStep_noise, waveGen_draws, sampleStep_iterate_srvVoice,
      getVoice_sampleStep_iterate m hk, advanceVoice_iterate_wave, ih]
    split_ifs
    · rw [noiseAfter_succ]
    · rfl

@[simp] theorem sampleStep_iterate_acc_length (m : Nat) (s : State) : (sampleStep^[m] s).acc.length = s.acc.length := by
  induction m with
  | zero => rfl
  | succ m ih => simpa only [Function.iterate_succ_apply', sampleStep_acc, List.length_modify] using ih

/-- What `m` samples add to ACC: at each position the contribution of its sample, elsewhere nothing (R146). -/
theorem sampleStep_iterate_acc (m : Nat) {s : State} (hk : s.srvVoice < s.voices.length) (j : Nat) :
    (sampleStep^[m] s).acc[j]? = s.acc[j]?.map fun x =>
      if s.srvPos ≤ j ∧ j < s.srvPos + m then
        x + contribution s.cfg
          (waveGen s.cfg (getVoice s s.srvVoice).wave
            (phaseIdx (advanceVoice^[j - s.srvPos] (getVoice s s.srvVoice)).phase)
            (if (getVoice s s.srvVoice).wave = 5#8 then noiseAfter (j - s.srvPos) s.noise else s.noise)).1
          (advanceVoice^[j - s.srvPos] (getVoice s s.srvVoice)).vol
      else x := by
  induction m with
  | zero => simp [show ¬(s.srvPos ≤ j ∧ j < s.srvPos) by omega]
  | succ m ih =>
    rw [Function.iterate_succ_apply', sampleStep_acc, List.getElem?_modify, ih, sampleStep_iterate_srvPos,
      sampleStep_iterate_srvVoice, getVoice_sampleStep_iterate m hk, advanceVoice_iterate_wave,
      sampleStep_iterate_noise m hk, sampleStep_iterate_cfg]
    by_cases hj : s.srvPos + m = j
    · subst hj
      simp
    · have hiff : (s.srvPos ≤ j ∧ j < s.srvPos + m) ↔ (s.srvPos ≤ j ∧ j < s.srvPos + (m + 1)) := by omega
      simp only [hj, if_false, hiff, id_map']

/-! ## To the end of the instruction or of the window (R152, R155) -/

/-- Counting down ends at the sample that makes SLEFT 0: as many samples are made as are left of the instruction, or of
the window. -/
theorem runSamples_eq_iterate (n : Nat) {s : State} (hk : s.srvVoice < s.voices.length)
    (hs : 1 ≤ (getVoice s s.srvVoice).sleft.toNat) :
    runSamples n s = sampleStep^[min (getVoice s s.srvVoice).sleft.toNat n] s := by
  induction n generalizing s with
  | zero => simp [runSamples]
  | succ n ih =>
    have hvoice : getVoice (sampleStep s) s.srvVoice = advanceVoice (getVoice s s.srvVoice) :=
      getVoice_sampleStep_iterate 1 hk
    have hleft : (advanceVoice (getVoice s s.srvVoice)).sleft.toNat = (getVoice s s.srvVoice).sleft.toNat - 1 :=
      advanceVoice_iterate_sleft_toNat (m := 1) hs
    simp only [runSamples, sampleStep_srvVoice, hvoice, instrFinished, beq_iff_eq]
    split
    · rename_i h0
      rw [h0, BitVec.toNat_ofNat] at hleft
      rw [show min (getVoice s s.srvVoice).sleft.toNat (n + 1) = 1 by omega, Function.iterate_one]
    · rename_i h0
      have hpos : 1 ≤ (getVoice (sampleStep s) s.srvVoice).sleft.toNat := by
        rw [hvoice]
        exact Nat.one_le_iff_ne_zero.2 fun h => h0 (BitVec.eq_of_toNat_eq h)
      rw [ih (by simpa using hk) hpos, sampleStep_srvVoice, hvoice, hleft, ← Function.iterate_succ_apply]
      congr 2
      omega

/-- The voice at the end of its instruction: the next one, or the request retired (R152, R153). -/
def finishVoice (v : Voice) : Voice :=
  { v with cur := v.cur + 1, req := if v.endIdx ≤ v.cur + 1 then none else v.req }

/-- The queue at the end of an instruction of the voice `v`: its request is Done where nothing is left (R153). -/
def finishQueue (v : Voice) (q : List Entry) : List Entry :=
  if v.endIdx ≤ v.cur + 1 then setBoundState q v.req .done else q

theorem endInstr_eq {s : State} (hk : s.srvVoice < s.voices.length) :
    endInstr s = { setVoice s s.srvVoice (finishVoice (getVoice s s.srvVoice)) with
      queue := finishQueue (getVoice s s.srvVoice) s.queue } := by
  have hread (v : Voice) : getVoice (setVoice s s.srvVoice v) s.srvVoice = v := getVoice_setVoice_self hk v
  simp only [endInstr, exhausted, decide_eq_true_eq, finishVoice, finishQueue]
  split
  · simp only [retireVoice, setVoice_srvVoice, hread]
    simp [setVoice]
  · rfl

/-- The voice after `m` samples of an instruction of `n`: its end reached, or not. -/
def voiceAfterInstr (c : Config) (code : Byte) (op : SoundOps) (m : Nat) (v : Voice) : Voice :=
  let w := advanceVoice^[m] (enterVoice c code (clampOps op) v)
  if m = sampleCount c (clampOps op).d then finishVoice w else w

/-- A sound instruction, whole: the samples of `samplesMade`, and the end of the instruction where these are all. -/
theorem exec_sound_eq {i : Instr} {code : Byte} {op : SoundOps} (hi : i.sound = some (code, op)) {s : State}
    (hc : s.cfg.Legal) (hk : s.srvVoice < s.voices.length) :
    exec i s = .next { s with
      voices := s.voices.set s.srvVoice (voiceAfterInstr s.cfg code op (samplesMade s op) (getVoice s s.srvVoice))
      queue  := if samplesMade s op = sampleCount s.cfg (clampOps op).d then
        finishQueue (getVoice s s.srvVoice) s.queue else s.queue
      noise  := (sampleStep^[samplesMade s op] (enterInstr code op s)).noise
      acc    := (sampleStep^[samplesMade s op] (enterInstr code op s)).acc
      srvPos := s.srvPos + samplesMade s op } := by
  set s1 := enterInstr code op s with hs1
  set v1 := enterVoice s.cfg code (clampOps op) (getVoice s s.srvVoice) with hv1
  have hk1 : s1.srvVoice < s1.voices.length := by simpa [hs1] using hk
  have hv : getVoice s1 s1.srvVoice = v1 := getVoice_enterInstr code op hk
  have hleft : v1.sleft.toNat = sampleCount s.cfg (clampOps op).d := enterVoice_sleft_toNat hc code op _
  have hrun : runSamples (s1.acc.length - s1.srvPos) s1 = sampleStep^[samplesMade s op] s1 := by
    rw [runSamples_eq_iterate _ hk1 (by rw [hv, hleft]; exact sampleCount_pos _ _), hv, hleft]
    rfl
  have hvoice : getVoice (sampleStep^[samplesMade s op] s1) s1.srvVoice = advanceVoice^[samplesMade s op] v1 := by
    rw [getVoice_sampleStep_iterate _ hk1, hv]
  have hfinished : (advanceVoice^[samplesMade s op] v1).sleft = 0#32 ↔
      samplesMade s op = sampleCount s.cfg (clampOps op).d := by
    have hle : samplesMade s op ≤ sampleCount s.cfg (clampOps op).d := Nat.min_le_left _ _
    rw [← BitVec.toNat_inj, advanceVoice_iterate_sleft_toNat (hleft ▸ hle), hleft, BitVec.toNat_ofNat]
    omega
  have hkeep := advanceVoice_iterate_keeps (samplesMade s op) v1
  rw [exec_sound hi, playSound, ← hs1]
  simp only [playOn, hrun, sampleStep_iterate_srvVoice, hvoice, instrFinished, beq_iff_eq, hfinished,
    voiceAfterInstr, ← hv1]
  congr 1
  split
  · rw [endInstr_eq (by rw [sampleStep_iterate_frame]; simpa using hk1), sampleStep_iterate_srvVoice, hvoice,
      sampleStep_iterate_frame]
    have hq : finishQueue (advanceVoice^[samplesMade s op] v1) s.queue = finishQueue (getVoice s s.srvVoice) s.queue := by
      obtain ⟨hreq, -, hcur, hend, -⟩ := hkeep
      rw [finishQueue, hreq, hcur, hend]
      rfl
    simp [setVoice, hs1, enterInstr, ← hq]
  · rw [sampleStep_iterate_frame]
    simp [setVoice, hs1, enterInstr, hv1, getVoice, hk]

end Sys2Proof.Machine
end


section
/-! SUPPORT. What the closed form of a sound instruction says of the served voice, of Q and of ACC. -/

namespace Sys2Proof.Machine

/-- Writing STATE through a voice's REQ writes it to the entries of that name (R25, R39). -/
theorem setBoundState_eq_map (q : List Entry) (r : Option Nat) (st : EntryState) :
    setBoundState q r st = q.map fun e => if r = some e.name then { e with state := st } else e := by
  cases r with
  | none => simp [setBoundState]
  | some n => simp [setBoundState, setEntryState, eq_comm]

theorem finishQueue_eq_map (v : Voice) (q : List Entry) :
    finishQueue v q = q.map fun e =>
      if v.endIdx ≤ v.cur + 1 ∧ v.req = some e.name then { e with state := .done } else e := by
  rw [finishQueue, setBoundState_eq_map]
  split_ifs with h <;> simp [h]

/-- Every register but CUR and REQ is that of the samples alone, whether the instruction ended or not. -/
theorem voiceAfterInstr_registers (c : Config) (code : Byte) (op : SoundOps) (m : Nat) (v : Voice) :
    voiceAfterInstr c code op m v = { advanceVoice^[m] (enterVoice c code (clampOps op) v) with
      cur := if m = sampleCount c (clampOps op).d then v.cur + 1 else v.cur
      req := if m = sampleCount c (clampOps op).d ∧ v.endIdx ≤ v.cur + 1 then none else v.req } := by
  obtain ⟨hreq, -, hcur, hend, -⟩ := advanceVoice_iterate_keeps m (enterVoice c code (clampOps op) v)
  simp only [enterVoice_req, enterVoice_cur, enterVoice_endIdx] at hreq hcur hend
  by_cases hm : m = sampleCount c (clampOps op).d
  · simp only [voiceAfterInstr, eq_true hm, true_and, if_true, finishVoice, hreq, hcur, hend]
  · simp only [voiceAfterInstr, eq_false hm, false_and, if_false]
    rw [← hreq, ← hcur]

theorem getVoice_of_voices_set {s t : State} {k : Nat} {v : Voice} (hk : k < s.voices.length)
    (h : t.voices = s.voices.set k v) (j : Nat) : getVoice t j = if j = k then v else getVoice s j := by
  rw [getVoice_congr (t := setVoice s k v) h, getVoice_setVoice]
  simp [hk]

/-- The samples of an instruction, each scaled by the volume of its own sample (R147). -/
theorem contribution_enterVoice (c : Config) (code : Byte) (op : SoundOps) (v : Voice) (amp : Int) {j : Nat}
    (hj : j ≤ sampleCount c (clampOps op).d) :
    contribution c amp (advanceVoice^[j] (enterVoice c code (clampOps op) v)).vol =
      contributionAt c (clampOps op) amp j := by
  rw [contribution_eq_div, enterVoice_iterate_vol c code op v hj, contributionAt]

/-- ACC after an instruction: at the positions of the samples it makes, its generator at the phase of the sample times
the volume of the sample; elsewhere as it was. -/
theorem enterInstr_samples_acc (code : Byte) (op : SoundOps) {s : State} (hk : s.srvVoice < s.voices.length) (j : Nat) :
    (sampleStep^[samplesMade s op] (enterInstr code op s)).acc[j]? = s.acc[j]?.map fun x =>
      if s.srvPos ≤ j ∧ j < s.srvPos + samplesMade s op then
        x + contributionAt s.cfg (clampOps op)
          (waveGen s.cfg code
            (phaseIdx (phaseAfter s.cfg (clampOps op) (getVoice s s.srvVoice).phase (j - s.srvPos)))
            (if code = 5#8 then noiseAfter (j - s.srvPos) s.noise else s.noise)).1 (j - s.srvPos)
      else x := by
  have hacc := sampleStep_iterate_acc (samplesMade s op) (s := enterInstr code op s) (by simpa using hk) j
  rw [enterInstr_srvVoice, getVoice_enterInstr code op hk] at hacc
  refine hacc.trans ?_
  refine Option.map_congr fun x _ => ?_
  set v := enterVoice s.cfg code (clampOps op) (getVoice s s.srvVoice) with hv
  change (if s.srvPos ≤ j ∧ j < s.srvPos + samplesMade s op then
    x + contribution s.cfg (waveGen s.cfg code (phaseIdx (advanceVoice^[j - s.srvPos] v).phase)
      (if code = 5#8 then noiseAfter (j - s.srvPos) s.noise else s.noise)).1 (advanceVoice^[j - s.srvPos] v).vol
    else x) = _
  by_cases hj : s.srvPos ≤ j ∧ j < s.srvPos + samplesMade s op
  · have hle : j - s.srvPos ≤ sampleCount s.cfg (clampOps op).d := by
      have : samplesMade s op ≤ sampleCount s.cfg (clampOps op).d := Nat.min_le_left _ _
      omega
    rw [if_pos hj, if_pos hj, hv, contribution_enterVoice _ _ _ _ _ hle, enterVoice_iterate_phase]
  · rw [if_neg hj, if_neg hj]

theorem enterInstr_samples_noise (code : Byte) (op : SoundOps) {s : State} (hk : s.srvVoice < s.voices.length)
    (m : Nat) :
    (sampleStep^[m] (enterInstr code op s)).noise = if code = 5#8 then noiseAfter m s.noise else s.noise := by
  rw [sampleStep_iterate_noise m (by simpa using hk), enterInstr_srvVoice, getVoice_enterInstr code op hk]
  rfl

/-- The quarters of the cycle as an ordered choice (R121). -/
theorem waveGen_sine (c : Config) {idx : Nat} (hidx : idx < 1024) (noise : Word) :
    (waveGen c 3#8 idx noise).1 =
      if idx ≤ 256 then (romEntry c idx : Int) else if idx < 512 then (romEntry c (512 - idx) : Int)
      else if idx ≤ 768 then -(romEntry c (idx - 512) : Int) else -(romEntry c (1024 - idx) : Int) := by
  have hcode : (waveGen c 3#8 idx noise).1 = sineGen c idx := by simp [waveGen]
  rw [hcode]
  simp only [sineGen]
  rcases Nat.lt_or_ge idx 512 with hlow | hhigh
  · rw [if_neg (Nat.not_le.2 hlow), if_neg (Nat.not_le.2 hlow)]
    by_cases hq : idx ≤ 256
    · rw [if_pos hq, if_neg (Nat.not_lt.2 hq)]
    · rw [if_neg hq, if_pos hlow, if_pos (Nat.not_le.1 hq)]
  · rw [if_pos hhigh, if_pos hhigh, if_neg (show ¬idx ≤ 256 by omega), if_neg (Nat.not_lt.2 hhigh)]
    by_cases hq : idx ≤ 768
    · rw [if_pos hq, if_neg (show ¬256 < idx - 512 by omega)]
    · rw [if_neg hq, if_pos (show 256 < idx - 512 by omega), show 512 - (idx - 512) = 1024 - idx by omega]

/-- A code with no generator of its own is silent (R93, R130). -/
theorem waveGen_silence {c : Config} {code : Byte} {idx : Nat} {noise : Word} (h : namedWaveCode code = false) :
    waveGen c code idx noise = (0, noise) := by
  simp only [namedWaveCode, Bool.or_eq_false_iff, beq_eq_false_iff_ne] at h
  simp [waveGen, h]

end Sys2Proof.Machine
end

section
/-! The statements about the ten sound instructions. -/

namespace Sys2Proof.Proofs

open Sys2Proof.Machine

/-- Settles O11: the first sample of any sound instruction, with SINE's generator in it. -/
theorem sineAddsItsFirstSample : Obligations.SineAddsItsFirstSample := by
  intro s op x _ hk hx idx rom amp
  have hfirst := exec_sound_acc_first (i := .sine op) rfl hk hx
  rwa [waveGen_sine _ (Nat.mod_lt _ (by decide))] at hfirst

/-- Settles O13: the draws are those of the samples made, and each sample's amplitude is that of the state after its
draw. -/
theorem noiseDrawsOneValuePerSample : Obligations.NoiseDrawsOneValuePerSample := by
  intro s op hc hk
  refine ⟨_, exec_sound_eq (i := .noise op) rfl hc hk, enterInstr_samples_noise 5#8 op hk _, fun j x hj hx => ?_⟩
  rw [enterInstr_samples_acc 5#8 op hk, hx, Nat.add_sub_cancel_left, if_pos rfl, waveGen_noise, noiseAfter_succ]
  simp [hj]

/-- Settles O14: a silent generator adds 0 to every sample, and PHASE goes on as for every instruction. -/
theorem silenceAddsNothing : Obligations.SilenceAddsNothing := by
  intro s code op hc hk hw
  have hname : namedWaveCode code = false := by simpa [WellFormed] using hw
  have hcode : code ≠ 5#8 := by
    rintro rfl
    cases hname
  refine ⟨_, exec_sound_eq (i := .silence code op) rfl hc hk, List.ext_getElem? fun j => ?_, ?_, ?_⟩
  · simp only [enterInstr_samples_acc code op hk, waveGen_silence hname, contributionAt]
    simp
  · exact (enterInstr_samples_noise code op hk _).trans (if_neg hcode)
  · rw [getVoice_of_voices_set hk rfl, if_pos rfl, voiceAfterInstr_registers]
    exact enterVoice_iterate_phase _ _ _ _ _

/-- Settles O15: the registers of `samplesMade` samples, and the end of the instruction where these are all of it. -/
theorem soundInstructionRegisters : Obligations.SoundInstructionRegisters := by
  intro s i code op hi hc hk o n m v
  have hm : m ≤ n := Nat.min_le_left _ _
  refine ⟨_, exec_sound_eq hi hc hk, rfl, rfl, ?_⟩
  rw [getVoice_of_voices_set hk rfl, if_pos rfl, voiceAfterInstr_registers]
  obtain ⟨-, hstart, -, hend, hcv, htdelta, hvstep, hwave⟩ :=
    advanceVoice_iterate_keeps m (enterVoice s.cfg code o v)
  refine ⟨hcv, hwave, ?_, enterVoice_iterate_vol _ _ _ _ hm, ?_, enterVoice_iterate_tstep _ _ _ _ _, ?_,
    enterVoice_iterate_phase _ _ _ _ _, rfl, rfl, hend, hstart⟩
  · have hleft := enterVoice_sleft_toNat hc code op v
    exact (advanceVoice_iterate_sleft_toNat (hleft ▸ hm)).trans (by rw [hleft])
  · exact (congrArg BitVec.toInt hvstep).trans (toInt_volumeStep s.cfg op)
  · exact (congrArg BitVec.toInt htdelta).trans (toInt_toneDelta hc op)

/-- Settles O16: a generator that is not NOISE's reads the same stream at every sample. -/
theorem soundInstructionContributions : Obligations.SoundInstructionContributions := by
  intro s i code op hi hcode hc hk o p
  refine ⟨_, exec_sound_eq hi hc hk, (enterInstr_samples_noise code op hk _).trans (if_neg hcode), by simp,
    fun j x hx => ?_⟩
  rw [enterInstr_samples_acc code op hk, hx, if_neg hcode]
  rfl

/-- Settles O17: the closed form writes the served voice, the STATE of its request, G.NOISE, ACC and the position. -/
theorem soundInstructionFrame : Obligations.SoundInstructionFrame := by
  intro s i code op hi hc hk m v
  refine ⟨_, exec_sound_eq hi hc hk, rfl, rfl, rfl, rfl, rfl, rfl, rfl, rfl, fun _ => rfl, rfl, rfl, rfl, by simp,
    fun k hne => ?_, ?_, fun j hj => ?_, fun hcode => ?_⟩
  · rw [getVoice_of_voices_set hk rfl, if_neg hne]
  · simp only [finishQueue_eq_map]
    split_ifs with h <;> simp [m, h, v]
  · have hout : ¬(s.srvPos ≤ j ∧ j < s.srvPos + samplesMade s op) := by
      change j < s.srvPos ∨ s.srvPos + samplesMade s op ≤ j at hj
      omega
    simp only [enterInstr_samples_acc code op hk, if_neg hout, Option.map_id']
  · exact (enterInstr_samples_noise code op hk _).trans (if_neg hcode)

end Sys2Proof.Proofs
end


section
/-! SUPPORT. A voice's run over a leaf window: by instructions it is the sample-by-sample procedure of R159, and what it
adds to ACC does not depend on ACC (R172, R173). -/

namespace Sys2Proof.Machine

/-! ## Sequencing -/

theorem andThen_assoc {σ τ υ : Type} (o : Host.Outcome σ Fault Refusal) (f : σ → Host.Outcome τ Fault Refusal)
    (g : τ → Host.Outcome υ Fault Refusal) : andThen (andThen o f) g = andThen o fun s => andThen (f s) g := by
  cases o <;> rfl

theorem andThen_congr {σ τ : Type} {o : Host.Outcome σ Fault Refusal} {f g : σ → Host.Outcome τ Fault Refusal}
    (h : ∀ s, o = .next s → f s = g s) : andThen o f = andThen o g := by
  cases o with
  | next s => exact h s rfl
  | fault r => rfl
  | refused r => rfl

/-! ## Entering at the cursor (R63, R140) -/

/-- Where the program's entry is found and its next twelve bytes are in memory, the fetch answers them. -/
theorem fetchBytes_of_entry {s : State} {name : Nat} {e : Entry} (hr : (getVoice s s.srvVoice).req = some name)
    (he : findEntry s.queue name = some e)
    (hm : e.base + 12 * (getVoice s s.srvVoice).cur + 12 ≤ s.cfg.memSize) :
    fetchBytes s = .next (memReadBytes s.mem (e.base + 12 * (getVoice s s.srvVoice).cur) 12) := by
  simp [fetchBytes, hr, he, hm]

/-- A fetch that answers gives twelve bytes, which are a sound instruction. -/
theorem enterAtCursor_next {s t : State} (h : enterAtCursor s = .next t) : ∃ code op, t = enterInstr code op s := by
  obtain ⟨bs, -, h⟩ := andThen_eq_next.1 h
  split at h
  · split at h
    · injection h with h
      exact ⟨_, _, h.symm⟩
    · cases h
  · cases h

/-- Fetching and running is entering at the cursor and playing on. -/
theorem fetchAndRun_eq (s : State) : fetchAndRun s = andThen (enterAtCursor s) fun t => .next (playOn t) := by
  rw [fetchAndRun, enterAtCursor, andThen_assoc]
  refine andThen_congr fun bs _ => ?_
  cases hd : decode .program bs with
  | reject why => rfl
  | ok i rest =>
    obtain ⟨code, op, rfl⟩ := decode_program_sound hd
    simp only [execInProgram_sound (soundInstr_sound code op), soundInstr_sound]
    rfl

/-! ## By instructions and by samples (R159) -/

/-- Where a sample is left in the window, an instruction in progress makes it, and then ends or plays on. -/
theorem playOn_succ {s : State} {n : Nat} (h : s.acc.length - s.srvPos = n + 1) :
    playOn s = if (getVoice (sampleStep s) s.srvVoice).sleft = 0#32 then endInstr (sampleStep s)
      else playOn (sampleStep s) := by
  have hrest : (sampleStep s).acc.length - (sampleStep s).srvPos = n := by
    simp only [sampleStep_acc, List.length_modify, sampleStep_srvPos]
    omega
  simp only [playOn, h, hrest, runSamples, instrFinished, sampleStep_srvVoice, beq_iff_eq]
  by_cases h0 : (getVoice (sampleStep s) s.srvVoice).sleft = 0#32
  · simp only [if_pos h0, sampleStep_srvVoice]
  · simp only [if_neg h0]

/-- Where the window is full, an unfinished instruction is left as it is. -/
theorem playOn_full {s : State} (h : s.acc.length - s.srvPos = 0) (h0 : (getVoice s s.srvVoice).sleft ≠ 0#32) :
    playOn s = s := by
  simp [playOn, h, runSamples, instrFinished, h0]

/-- The turn of a running voice: its sample, and the end of the instruction where SLEFT reaches 0. -/
theorem voiceSample_running {s : State} (hcv : (getVoice s s.srvVoice).cv = true) :
    voiceSample s =
      let w := getVoice (sampleStep s) s.srvVoice
      if w.sleft = 0#32 then
        if w.endIdx ≤ w.cur + 1 then .next (endInstr (sampleStep s), false)
        else andThen (enterAtCursor (endInstr (sampleStep s))) fun t => .next (t, true)
      else .next (sampleStep s, true) := by
  by_cases h0 : (getVoice (sampleStep s) s.srvVoice).sleft = 0#32
  · by_cases he : (getVoice (sampleStep s) s.srvVoice).endIdx ≤ (getVoice (sampleStep s) s.srvVoice).cur + 1
    · simp [voiceSample, hcv, h0, he, endInstr, exhausted]
    · simp [voiceSample, hcv, h0, he, endInstr, exhausted]
  · simp [voiceSample, hcv, h0]

theorem voiceSample_fresh {s : State} (hcv : (getVoice s s.srvVoice).cv = false)
    (he : (getVoice s s.srvVoice).cur < (getVoice s s.srvVoice).endIdx) (hk : s.srvVoice < s.voices.length) :
    voiceSample s = andThen (enterAtCursor s) voiceSample := by
  simp only [voiceSample, hcv, true_and, if_neg (Nat.not_le.2 he), if_true]
  refine andThen_congr fun t ht => ?_
  obtain ⟨code, op, rfl⟩ := enterAtCursor_next ht
  have hcv' : (getVoice (enterInstr code op s) (enterInstr code op s).srvVoice).cv = true := by
    rw [enterInstr_srvVoice, getVoice_enterInstr code op hk]
    rfl
  simp only [voiceSample, hcv', Bool.true_eq_false, false_and, if_false, andThen_next]

theorem voiceSample_empty {s : State} (hcv : (getVoice s s.srvVoice).cv = false)
    (he : (getVoice s s.srvVoice).endIdx ≤ (getVoice s s.srvVoice).cur) :
    voiceSample s = .next (retireVoice s, false) := by
  simp [voiceSample, hcv, he]

/-- The served voice is at an instruction in progress, with `n` samples left in the window; where none is left, the
instruction is not finished. -/
structure PlaysOn (n : Nat) (s : State) : Prop where
  legal : s.cfg.Legal
  bound : isBound (getVoice s s.srvVoice) = true
  running : (getVoice s s.srvVoice).cv = true
  room : s.acc.length - s.srvPos = n
  unfinished : n = 0 → (getVoice s s.srvVoice).sleft ≠ 0#32

theorem PlaysOn.sample {n : Nat} {s : State} (h : PlaysOn (n + 1) s)
    (h0 : (getVoice (sampleStep s) s.srvVoice).sleft ≠ 0#32) : PlaysOn n (sampleStep s) := by
  obtain ⟨hlegal, hbound, hcv, hroom, -⟩ := h
  have hk := lt_of_isBound hbound
  have hvoice : getVoice (sampleStep s) s.srvVoice = advanceVoice (getVoice s s.srvVoice) :=
    getVoice_sampleStep_iterate 1 hk
  refine ⟨hlegal, ?_, ?_, ?_, fun _ => h0⟩
  · rw [sampleStep_srvVoice, hvoice]; exact hbound
  · rw [sampleStep_srvVoice, hvoice]; exact hcv
  · simp only [sampleStep_acc, List.length_modify, sampleStep_srvPos]; omega

theorem PlaysOn.entered {n : Nat} {s : State} (hc : s.cfg.Legal) (hb : isBound (getVoice s s.srvVoice) = true)
    (hroom : s.acc.length - s.srvPos = n) (code : Byte) (op : SoundOps) : PlaysOn n (enterInstr code op s) := by
  have hk := lt_of_isBound hb
  have hvoice := getVoice_enterInstr code op hk
  refine ⟨hc, ?_, ?_, hroom, fun _ h0 => ?_⟩
  · rw [enterInstr_srvVoice, hvoice]; exact hb
  · rw [enterInstr_srvVoice, hvoice]; rfl
  · rw [enterInstr_srvVoice, hvoice] at h0
    have hleft := enterVoice_sleft_toNat hc code op (getVoice s s.srvVoice)
    have hpos := sampleCount_pos s.cfg (clampOps op).d
    rw [h0, BitVec.toNat_ofNat] at hleft
    omega

/-- Playing on to the end of the window, instruction by instruction, makes the samples of R159 one by one. -/
theorem runOn_playOn_eq {n fuel : Nat} {s : State} (h : PlaysOn n s) (hf : n + 1 ≤ fuel) :
    runOn fuel (playOn s) = runVoiceBySamples n s := by
  induction n generalizing fuel s with
  | zero =>
    obtain ⟨fuel, rfl⟩ := Nat.exists_eq_add_of_lt hf
    simp [playOn_full h.room (h.unfinished rfl), runOn, runVoiceBySamples, instrFinished, h.unfinished]
  | succ n ih =>
    obtain ⟨fuel, rfl⟩ : ∃ f, fuel = f + 1 := ⟨fuel - 1, by omega⟩
    have hk := lt_of_isBound h.bound
    have hvoice : getVoice (sampleStep s) s.srvVoice = advanceVoice (getVoice s s.srvVoice) :=
      getVoice_sampleStep_iterate 1 hk
    rw [playOn_succ h.room, runVoiceBySamples, voiceSample_running h.running]
    by_cases h0 : (getVoice (sampleStep s) s.srvVoice).sleft = 0#32
    · have hend := endInstr_eq (s := sampleStep s) (by simpa using hk)
      rw [sampleStep_srvVoice] at hend
      have hread : getVoice (endInstr (sampleStep s)) (endInstr (sampleStep s)).srvVoice =
          finishVoice (getVoice (sampleStep s) s.srvVoice) := by
        rw [hend]
        exact getVoice_setVoice_self (by simpa using hk) _
      by_cases he : (getVoice (sampleStep s) s.srvVoice).endIdx ≤ (getVoice (sampleStep s) s.srvVoice).cur + 1
      · simp only [if_pos h0, if_pos he, andThen_next, runOn, hread]
        simp [finishVoice, he, isBound]
      · have hbound : isBound (getVoice (endInstr (sampleStep s)) (endInstr (sampleStep s)).srvVoice) = true := by
          simp only [hread, finishVoice, if_neg he, isBound]
          rw [hvoice]
          exact h.bound
        have hfinished :
            instrFinished (getVoice (endInstr (sampleStep s)) (endInstr (sampleStep s)).srvVoice) = true := by
          simp [hread, finishVoice, h0, instrFinished]
        simp only [if_pos h0, if_neg he, runOn, hbound, hfinished, Bool.and_self, if_true, fetchAndRun_eq, andThen_assoc,
          andThen_next]
        refine andThen_congr fun t ht => ?_
        obtain ⟨code, op, rfl⟩ := enterAtCursor_next ht
        refine ih (PlaysOn.entered (by rw [hend]; exact h.legal) hbound ?_ code op) (by omega)
        have := h.room
        simp only [hend, setVoice_acc, setVoice_srvPos, sampleStep_acc, List.length_modify, sampleStep_srvPos]
        omega
    · simp only [if_neg h0, andThen_next]
      exact ih (h.sample h0) (by omega)

/-- RunVoice, instruction by instruction, is the block of R159. -/
theorem runVoice_eq_bySamples {s : State} {k : Nat} (hc : s.cfg.Legal) (hb : isBound (getVoice s k) = true)
    (hn : 1 ≤ s.acc.length) :
    runVoice k s = runVoiceBySamples s.acc.length { s with srvVoice := k, srvPos := 0 } := by
  obtain ⟨n, hlen⟩ : ∃ n, s.acc.length = n + 1 := ⟨s.acc.length - 1, by omega⟩
  set s0 : State := { s with srvVoice := k, srvPos := 0 } with hs0
  have hvoice : getVoice s k = getVoice s0 s0.srvVoice := rfl
  have hlen0 : s0.acc.length - s0.srvPos = n + 1 := hlen
  rw [hvoice] at hb
  simp only [runVoice, ← hs0, hvoice, hlen]
  split
  · rename_i hcv
    exact runOn_playOn_eq ⟨hc, hb, hcv, hlen0, by omega⟩ (by omega)
  · rename_i hcv
    rw [Bool.not_eq_true] at hcv
    split
    · rename_i he
      simp [runVoiceBySamples, voiceSample_empty hcv (by simpa [exhausted] using he)]
    · rename_i he
      rw [runVoiceBySamples, voiceSample_fresh hcv (by simpa [exhausted] using he) (lt_of_isBound hb), fetchAndRun_eq,
        andThen_assoc, andThen_assoc]
      refine andThen_congr fun t ht => ?_
      obtain ⟨code, op, rfl⟩ := enterAtCursor_next ht
      exact runOn_playOn_eq (PlaysOn.entered (s := s0) hc hb hlen0 code op) (by omega)

/-! ## ACC is only added to (R172, R173) -/

/-- `b` added to ACC, position by position. -/
def addAcc (b : List Int) (s : State) : State := { s with acc := List.zipWith (· + ·) b s.acc }

theorem addAcc_acc_length {b : List Int} {s : State} (h : s.acc.length = b.length) :
    (addAcc b s).acc.length = s.acc.length := by
  simp [addAcc, h]

/-- No command is in the way: the length of ACC is the window's all along. -/
theorem keptByVoices_acc_length (n : Nat) : KeptByVoices fun s => s.acc.length = n where
  enter _ _ _ h := h
  sample s h := by simpa using h
  cursor _ h := h
  retire _ h := h

theorem sampleStep_addAcc (b : List Int) (s : State) : sampleStep (addAcc b s) = addAcc b (sampleStep s) := by
  have hacc (c : Int) : (List.zipWith (· + ·) b s.acc).modify s.srvPos (· + c) =
      List.zipWith (· + ·) b (s.acc.modify s.srvPos (· + c)) := by
    refine List.ext_getElem? fun j => ?_
    simp only [List.getElem?_modify, List.getElem?_zipWith]
    by_cases hj : s.srvPos = j
    · cases hb : b[j]? <;> cases ha : s.acc[j]? <;> simp [hj, add_assoc]
    · simp [hj]
  simp only [sampleStep, addAcc, getVoice, setVoice, hacc]

theorem runSamples_addAcc (b : List Int) (n : Nat) (s : State) :
    runSamples n (addAcc b s) = addAcc b (runSamples n s) := by
  induction n generalizing s with
  | zero => rfl
  | succ n ih =>
    simp only [runSamples, sampleStep_addAcc]
    split
    · rename_i h
      exact (if_pos h).symm ▸ rfl
    · rename_i h
      rw [ih]
      exact (if_neg h).symm ▸ rfl

theorem endInstr_addAcc (b : List Int) (s : State) : endInstr (addAcc b s) = addAcc b (endInstr s) := by
  simp only [endInstr, apply_ite (addAcc b)]
  rfl

theorem playOn_addAcc {b : List Int} {s : State} (h : s.acc.length = b.length) :
    playOn (addAcc b s) = addAcc b (playOn s) := by
  simp only [playOn, addAcc_acc_length h, apply_ite (addAcc b), ← endInstr_addAcc]
  rw [show (addAcc b s).srvPos = s.srvPos from rfl, runSamples_addAcc]
  rfl

theorem enterAtCursor_addAcc (b : List Int) (s : State) :
    enterAtCursor (addAcc b s) = andThen (enterAtCursor s) fun t => .next (addAcc b t) := by
  simp only [enterAtCursor, andThen_assoc]
  rw [show fetchBytes (addAcc b s) = fetchBytes s from rfl]
  refine andThen_congr fun bs _ => ?_
  cases decode .program bs with
  | reject why => rfl
  | ok i rest => cases hi : i.sound <;> simp only [hi] <;> rfl

theorem fetchAndRun_addAcc {b : List Int} {s : State} (h : s.acc.length = b.length) :
    fetchAndRun (addAcc b s) = andThen (fetchAndRun s) fun t => .next (addAcc b t) := by
  simp only [fetchAndRun_eq, enterAtCursor_addAcc, andThen_assoc, andThen_next]
  refine andThen_congr fun t ht => ?_
  obtain ⟨code, op, rfl⟩ := enterAtCursor_next ht
  rw [playOn_addAcc (by simpa using h)]

theorem runOn_addAcc {b : List Int} {s : State} (h : s.acc.length = b.length) (fuel : Nat) :
    runOn fuel (addAcc b s) = andThen (runOn fuel s) fun t => .next (addAcc b t) := by
  induction fuel generalizing s with
  | zero => rfl
  | succ fuel ih =>
    simp only [runOn]
    rw [show getVoice (addAcc b s) (addAcc b s).srvVoice = getVoice s s.srvVoice from rfl]
    split
    · rw [fetchAndRun_addAcc h, andThen_assoc, andThen_assoc]
      refine andThen_congr fun t ht => ?_
      exact ih (fetchAndRun_keeps (keptByVoices_acc_length b.length) h ht)
    · rfl

/-- What a voice does beside adding to ACC does not depend on ACC, and what it adds does not either. -/
theorem runVoice_addAcc {b : List Int} {s : State} (h : s.acc.length = b.length) (k : Nat) :
    runVoice k (addAcc b s) = andThen (runVoice k s) fun t => .next (addAcc b t) := by
  set s0 : State := { s with srvVoice := k, srvPos := 0 } with hs0
  have h0 : { addAcc b s with srvVoice := k, srvPos := 0 } = addAcc b s0 := rfl
  have hlen0 : s0.acc.length = b.length := h
  simp only [runVoice, addAcc_acc_length h, h0, ← hs0]
  rw [show getVoice (addAcc b s) k = getVoice s k from rfl]
  split
  · rw [playOn_addAcc hlen0]
    exact runOn_addAcc (playOn_keeps (keptByVoices_acc_length b.length) hlen0) _
  · split
    · rfl
    · rw [fetchAndRun_addAcc hlen0, andThen_assoc, andThen_assoc]
      refine andThen_congr fun t ht => ?_
      exact runOn_addAcc (fetchAndRun_keeps (keptByVoices_acc_length b.length) hlen0 ht) _

theorem addAcc_zeros (b : List Int) (s : State) :
    addAcc b { s with acc := List.replicate b.length 0 } = { s with acc := b } := by
  have hacc : List.zipWith (· + ·) b (List.replicate b.length 0) = b := by
    refine List.ext_getElem? fun j => ?_
    by_cases hj : j < b.length <;> simp [hj]
  simp only [addAcc, hacc]

end Sys2Proof.Machine
end

section
/-! The statements about a voice's run over a leaf window. -/

namespace Sys2Proof.Proofs

open Sys2Proof.Machine

/-- Settles O6: the fetch answers the bytes, and RENDER runs the meanings `exec` runs. -/
theorem fetchRunsTheDecodedInstruction : Obligations.FetchRunsTheDecodedInstruction := by
  intro s name e i rest hr he hm hd
  obtain ⟨code, op, rfl⟩ := decode_program_sound hd
  have hs := soundInstr_sound code op
  simp only [fetchAndRun, fetchBytes_of_entry hr he hm, andThen_next, hd, execInProgram_sound hs, exec_sound hs]

/-- Settles O23: the fresh voice of an empty request only retires. -/
theorem emptyRequestRetiresSilently : Obligations.EmptyRequestRetiresSilently := by
  intro s k name hk hr hcv hcur hend
  refine ⟨retireVoice { s with srvVoice := k, srvPos := 0 }, ?_, ?_, ?_, rfl, rfl, rfl⟩
  · simp [runVoice, hcv, exhausted, hcur, hend]
  · rw [getVoice_of_voices_set hk rfl, if_pos rfl]
    rfl
  · rw [retireVoice_queue, setBoundState_eq_map]
    simp only [show getVoice { s with srvVoice := k, srvPos := 0 } k = getVoice s k from rfl, hr, Option.some.injEq,
      eq_comm]

/-- Settles O24. -/
theorem voiceRunIsSampleBySample : Obligations.VoiceRunIsSampleBySample :=
  fun _ _ hc hb hn => runVoice_eq_bySamples hc hb hn

/-- Settles O25: the window with `b` in ACC is `b` added to the zeroed window. -/
theorem mixingIsPlainAddition : Obligations.MixingIsPlainAddition := by
  intro s t k b h
  have hlen : ({ s with acc := List.replicate b.length 0 } : State).acc.length = b.length := by simp
  refine ⟨runVoice_keeps (keptByVoices_acc_length b.length) (fun _ _ h => h) hlen h, ?_⟩
  rw [← addAcc_zeros b s, runVoice_addAcc hlen, h]
  rfl

end Sys2Proof.Proofs
end


section
/-! SUPPORT. What the scan answers, that the loop's fuel does not matter, and which voice a promotion chooses (R185 to
R194). -/

namespace Sys2Proof.Machine

/-! ## The scan (R185 to R188) -/

/-- A scan passes the entries that are not due and stops at the first that is. -/
theorem scanQueue_append {curr : Clock} {q1 : List Entry} (q2 : List Entry) (t : Option Nat)
    (h : ∀ d ∈ q1, d.state = .waiting → curr.toNat < d.start.toNat) :
    ∃ u, scanQueue curr (q1 ++ q2) t = scanQueue curr q2 u := by
  induction q1 generalizing t with
  | nil => exact ⟨t, rfl⟩
  | cons d q1 ih =>
    have hrest : ∀ e ∈ q1, e.state = .waiting → curr.toNat < e.start.toNat :=
      fun e he => h e (List.mem_cons_of_mem d he)
    simp only [List.cons_append, scanQueue]
    split
    · rename_i hw
      rw [if_neg (Nat.not_le.2 (h d List.mem_cons_self (by simpa [isWaiting] using hw)))]
      exact ih _ hrest
    · exact ih _ hrest

theorem scanQueue_first_due {curr : Clock} {q1 q2 : List Entry} {e : Entry} (t : Option Nat)
    (h : ∀ d ∈ q1, d.state = .waiting → curr.toNat < d.start.toNat) (hw : e.state = .waiting)
    (hdue : e.start.toNat ≤ curr.toNat) : ∃ u, scanQueue curr (q1 ++ e :: q2) t = (some e, u) := by
  obtain ⟨u, hu⟩ := scanQueue_append (e :: q2) t h
  exact ⟨u, by simp [hu, scanQueue, isWaiting, hw, hdue]⟩

theorem scanQueue_not_due {curr : Clock} {q : List Entry} (t : Option Nat)
    (h : ∀ d ∈ q, d.state = .waiting → curr.toNat < d.start.toNat) : ∃ u, scanQueue curr q t = (none, u) := by
  obtain ⟨u, hu⟩ := scanQueue_append [] t h
  rw [List.append_nil] at hu
  exact ⟨u, hu⟩

/-- The time a scan gives back is the least of the waits it has passed and the time it began with. -/
theorem scanQueue_least {curr : Clock} {q : List Entry} {t u : Option Nat} (h : scanQueue curr q t = (none, u)) :
    (u = none ↔ t = none ∧ ∀ e ∈ q, e.state ≠ .waiting) ∧
    ∀ x, u = some x →
      (∀ y, t = some y → x ≤ y) ∧ (∀ e ∈ q, e.state = .waiting → x ≤ e.start.toNat - curr.toNat) ∧
      (t = some x ∨ ∃ e ∈ q, e.state = .waiting ∧ x = e.start.toNat - curr.toNat) := by
  induction q generalizing t with
  | nil =>
    simp only [scanQueue, Prod.mk.injEq, true_and] at h
    subst h
    exact ⟨by simp, fun x hx => ⟨fun y hy => by simp_all, by simp, .inl hx⟩⟩
  | cons d q ih =>
    simp only [scanQueue] at h
    split at h
    · rename_i hw
      have hw : d.state = .waiting := by simpa [isWaiting] using hw
      split at h
      · simp at h
      · obtain ⟨hnone, hleast⟩ := ih h
        refine ⟨?_, fun x hx => ?_⟩
        · cases t <;> simp_all [minLeft]
        · obtain ⟨hle, hall, hmem⟩ := hleast x hx
          cases t with
          | none =>
            have hxd := hle _ rfl
            refine ⟨by simp, by simpa [hw] using ⟨hxd, hall⟩, ?_⟩
            rcases hmem with hmem | ⟨e, he, hmem⟩
            · exact .inr ⟨d, by simp, hw, (Option.some.inj hmem).symm⟩
            · exact .inr ⟨e, by simp [he], hmem⟩
          | some y =>
            have hxd := hle _ rfl
            refine ⟨fun z hz => ?_, ?_, ?_⟩
            · cases hz; omega
            · intro e he hew
              rcases List.mem_cons.1 he with rfl | he
              · omega
              · exact hall e he hew
            · rcases hmem with hmem | ⟨e, he, hmem⟩
              · have hmin : min y (d.start.toNat - curr.toNat) = x := Option.some.inj hmem
                rcases Nat.le_total (d.start.toNat - curr.toNat) y with hyd | hyd
                · exact .inr ⟨d, by simp, hw, by omega⟩
                · exact .inl (congrArg some (by omega))
              · exact .inr ⟨e, by simp [he], hmem⟩
    · rename_i hw
      have hw : d.state ≠ .waiting := by simpa [isWaiting] using hw
      simpa [hw] using ih h

/-! ## The loop (R194) -/

/-- Fuel above the number of Waiting entries is enough, however much it is. -/
theorem scheduleLoop_fuel {fuel fuel' : Nat} {s : State} (hf : waitingCount s.queue < fuel)
    (hf' : waitingCount s.queue < fuel') : scheduleLoop fuel s = scheduleLoop fuel' s := by
  induction fuel generalizing fuel' s with
  | zero => omega
  | succ fuel ih =>
    obtain ⟨fuel', rfl⟩ : ∃ f, fuel' = f + 1 := ⟨fuel' - 1, by omega⟩
    simp only [scheduleLoop]
    split
    · rename_i e u he
      obtain ⟨hmem, hw, -⟩ := scanQueue_due he
      have := waitingCount_promote_lt hmem hw
      exact ih (by omega) (by omega)
    · rfl

theorem schedule_of_due {s : State} {e : Entry} {u : Option Nat} (h : scanQueue s.curr s.queue none = (some e, u)) :
    schedule s = schedule (promote e s) := by
  obtain ⟨hmem, hw, -⟩ := scanQueue_due h
  have hlt := waitingCount_promote_lt hmem hw
  have hle : waitingCount s.queue ≤ s.queue.length := List.countP_le_length
  rw [schedule, scheduleLoop, h]
  exact scheduleLoop_fuel (by omega) (by rw [promote_queue_length]; omega)

theorem schedule_of_none {s : State} {t : Option Nat} (h : scanQueue s.curr s.queue none = (none, t)) :
    schedule s = (s, t) := by
  rw [schedule, scheduleLoop, h]

/-- Nothing is due after a scheduling step, so the next one at the same clock value changes nothing. -/
theorem schedule_schedule (s : State) : schedule (schedule s).1 = schedule s :=
  schedule_of_none (schedule_ends s)

theorem schedule_curr (s : State) : (schedule s).1.curr = s.curr := (schedule_frame s).2.1

/-- timeLeft is positive: what is due has been promoted. -/
theorem schedule_time_pos {s : State} {t : Nat} (h : (schedule s).2 = some t) : 0 < t :=
  scanQueue_time_pos (by simp) (schedule_ends s) t h

/-! ## The chosen voice (R189, R190) -/

/-- The best voice of a list: the one before it or one of its own, no later than any, and earlier than any before it. -/
theorem oldestFrom_spec (vs : List Voice) (k : Nat) (best : Nat × Clock) :
    (oldestFrom vs k best = best.1 ∧ ∀ v ∈ vs, best.2.toNat ≤ v.start.toNat) ∨
    ∃ (i : Nat) (v : Voice), vs[i]? = some v ∧ oldestFrom vs k best = k + i ∧ v.start.toNat < best.2.toNat ∧
      ∀ (j : Nat) (w : Voice), vs[j]? = some w →
        v.start.toNat ≤ w.start.toNat ∧ (j < i → v.start.toNat < w.start.toNat) := by
  induction vs generalizing k best with
  | nil => simp [oldestFrom]
  | cons d vs ih =>
    simp only [oldestFrom]
    split
    · rename_i hd
      right
      rcases ih (k + 1) (k, d.start) with ⟨hk, hall⟩ | ⟨i, v, hi, hk, hv, hall⟩
      · refine ⟨0, d, rfl, hk, hd, fun j w hw => ?_⟩
        cases j with
        | zero => cases hw; simp
        | succ j => exact ⟨hall w (List.mem_of_getElem? hw), by simp⟩
      · simp only at hv
        refine ⟨i + 1, v, hi, by omega, by omega, fun j w hw => ?_⟩
        cases j with
        | zero => cases hw; omega
        | succ j => simpa using hall j w hw
    · rename_i hd
      rcases ih (k + 1) best with ⟨hk, hall⟩ | ⟨i, v, hi, hk, hv, hall⟩
      · exact .inl ⟨hk, by simpa using ⟨by omega, hall⟩⟩
      · refine .inr ⟨i + 1, v, hi, by omega, hv, fun j w hw => ?_⟩
        cases j with
        | zero => cases hw; omega
        | succ j => simpa using hall j w hw

/-- The victim: the smallest START, the lowest index among equals (R190). -/
theorem oldestVoice_spec {vs : List Voice} (hvs : vs ≠ []) :
    ∃ v, vs[oldestVoice vs]? = some v ∧ ∀ (j : Nat) (w : Voice), vs[j]? = some w →
      v.start.toNat ≤ w.start.toNat ∧ (j < oldestVoice vs → v.start.toNat < w.start.toNat) := by
  obtain ⟨d, vs, rfl⟩ := List.exists_cons_of_ne_nil hvs
  simp only [oldestVoice]
  rcases oldestFrom_spec vs 1 (0, d.start) with ⟨hk, hall⟩ | ⟨i, v, hi, hk, hv, hall⟩
  · rw [hk]
    refine ⟨d, rfl, fun j w hw => ?_⟩
    cases j with
    | zero => cases hw; simp
    | succ j => exact ⟨hall w (List.mem_of_getElem? hw), by simp⟩
  · simp only at hv
    rw [hk, Nat.add_comm]
    refine ⟨v, hi, fun j w hw => ?_⟩
    cases j with
    | zero => cases hw; omega
    | succ j => simpa using hall j w hw

theorem freeVoice_some {vs : List Voice} {k : Nat} (h : freeVoice vs = some k) :
    ∃ v, vs[k]? = some v ∧ v.req = none ∧ ∀ (j : Nat) (w : Voice), j < k → vs[j]? = some w → w.req ≠ none := by
  obtain ⟨hk, hfree, hbefore⟩ := List.findIdx?_eq_some_iff_getElem.1 h
  refine ⟨vs[k], List.getElem?_eq_getElem hk, by simpa [isBound] using hfree, fun j w hj hw hn => ?_⟩
  obtain ⟨hj', rfl⟩ := List.getElem?_eq_some_iff.1 hw
  simpa [isBound, hn] using hbefore j hj

theorem freeVoice_none {vs : List Voice} (h : freeVoice vs = none) : ∀ w ∈ vs, w.req ≠ none := by
  intro w hw hn
  simpa [isBound, hn] using List.findIdx?_eq_none_iff.1 h w hw

/-- What Promote binds: the lowest free voice, or, with none free, the oldest. -/
theorem chooseVoice_spec {vs : List Voice} (hvs : vs ≠ []) :
    ∃ v, vs[chooseVoice vs]? = some v ∧
      ((v.req = none ∧ ∀ (j : Nat) (w : Voice), j < chooseVoice vs → vs[j]? = some w → w.req ≠ none) ∨
        ((∀ w ∈ vs, w.req ≠ none) ∧ ∀ (j : Nat) (w : Voice), vs[j]? = some w →
          v.start.toNat ≤ w.start.toNat ∧ (j < chooseVoice vs → v.start.toNat < w.start.toNat))) := by
  cases hfree : freeVoice vs with
  | some k =>
    have hchoose : chooseVoice vs = k := by simp [chooseVoice, hfree]
    obtain ⟨v, hv, hreq, hbefore⟩ := freeVoice_some hfree
    exact hchoose.symm ▸ ⟨v, hv, .inl ⟨hreq, hbefore⟩⟩
  | none =>
    have hchoose : chooseVoice vs = oldestVoice vs := by simp [chooseVoice, hfree]
    obtain ⟨v, hv, hold⟩ := oldestVoice_spec hvs
    exact hchoose.symm ▸ ⟨v, hv, .inr ⟨freeVoice_none hfree, hold⟩⟩

theorem chooseVoice_lt {vs : List Voice} (hvs : vs ≠ []) : chooseVoice vs < vs.length := by
  obtain ⟨v, hv, -⟩ := chooseVoice_spec hvs
  exact (List.getElem?_eq_some_iff.1 hv).1

theorem getVoice_of_getElem? {s : State} {k : Nat} {v : Voice} (h : s.voices[k]? = some v) : getVoice s k = v := by
  simp [getVoice, List.getD_eq_getElem?_getD, h]

end Sys2Proof.Machine
end

section
/-! The statements about the scheduler. -/

namespace Sys2Proof.Proofs

open Sys2Proof.Machine

/-- Settles O26: the loop stops at the first due entry, and ends with a scan that finds none. -/
theorem schedulingPromotesEverythingDue : Obligations.SchedulingPromotesEverythingDue := by
  intro s
  have hends := schedule_ends s
  rw [schedule_curr] at hends
  have hnotdue := scanQueue_none hends
  obtain ⟨hnone, hleast⟩ := scanQueue_least hends
  refine ⟨fun q1 q2 e hq hq1 hw hdue => ?_, fun h => ?_, fun e he hw => hnotdue e he (by simp [isWaiting, hw]),
    by simpa using hnone, fun t ht => ?_⟩
  · obtain ⟨u, hu⟩ := scanQueue_first_due (q2 := q2) none hq1 hw hdue
    exact schedule_of_due (hq ▸ hu)
  · obtain ⟨u, hu⟩ := scanQueue_not_due none h
    rw [schedule_of_none hu]
  · obtain ⟨-, hall, hmem⟩ := hleast t ht
    exact ⟨schedule_time_pos ht, hall, by simpa using hmem⟩

/-- Settles O27. -/
theorem schedulingIsIdempotent : Obligations.SchedulingIsIdempotent := schedule_schedule

/-- Settles O28: the chosen voice is bound, and the two writes of STATE are one pass over Q. -/
theorem promotionBindsTheChosenVoice : Obligations.PromotionBindsTheChosenVoice := by
  intro s e hvs
  obtain ⟨v, hv, hchosen⟩ := chooseVoice_spec hvs
  refine ⟨chooseVoice s.voices, v, hv, hchosen, ?_⟩
  have hqueue : setEntryState (setBoundState s.queue v.req .done) e.name .playing = s.queue.map fun d =>
      if d.name = e.name then { d with state := .playing }
      else if some d.name = v.req then { d with state := .done } else d := by
    rw [setBoundState_eq_map, setEntryState, List.map_map]
    refine List.map_congr_left fun d _ => ?_
    simp only [Function.comp, eq_comm (a := some d.name)]
    by_cases hr : v.req = some d.name
    · simp only [if_pos hr]
    · simp only [if_neg hr]
  simp only [promote, getVoice_of_getElem? hv, setVoice, bindVoice, hqueue]

end Sys2Proof.Proofs
end


section
/-! SUPPORT. When PLAY and RENDER are refused (R69, R211, R251), what the register block answers (R44 to R48), and
reading back what the host stored (R62). -/

namespace Sys2Proof.Machine

/-! ## Ranges (R69) -/

/-- Two ranges overlap where they have an address in common. -/
theorem rangesOverlap_iff {a la b lb : Nat} :
    rangesOverlap a la b lb = true ↔ ∃ x, (a ≤ x ∧ x < a + la) ∧ b ≤ x ∧ x < b + lb := by
  simp only [rangesOverlap, Bool.and_eq_true, decide_eq_true_eq]
  constructor
  · rintro ⟨⟨⟨hla, hlb⟩, hab⟩, hba⟩
    exact ⟨max a b, by omega, by omega⟩
  · rintro ⟨x, hx, hx'⟩
    omega

theorem overlapsDevice_of_regBlock {c : Config} {a n x : Nat} (hx : a ≤ x) (hx' : x < a + n) (hb : c.regBase ≤ x)
    (hb' : x < c.regBase + 36) : overlapsDevice c a n = true := by
  have : rangesOverlap a n c.regBase regBlockSize = true := rangesOverlap_iff.2 ⟨x, ⟨hx, hx'⟩, hb, hb'⟩
  simp [overlapsDevice, this]

/-- Memory outside device space is outside the register block. -/
theorem hitsRegBlock_of_overlapsDevice {c : Config} {a n : Nat} (h : overlapsDevice c a n = false) :
    hitsRegBlock c a n = false := by
  simp only [overlapsDevice, Bool.or_eq_false_iff] at h
  exact h.1

theorem overlapsPinned_iff {q : List Entry} {a n : Nat} :
    overlapsPinned q a n = true ↔ ∃ e ∈ q, ∃ x, (a ≤ x ∧ x < a + n) ∧ e.base ≤ x ∧ x < e.base + e.len := by
  simp [overlapsPinned, rangesOverlap_iff]

/-- No pinned byte among the addresses: each entry's bytes lie below them or above. -/
theorem overlapsPinned_eq_false {q : List Entry} {a n : Nat}
    (h : ∀ e ∈ q, ∀ x, e.base ≤ x → x < e.base + e.len → x < a ∨ a + n ≤ x) : overlapsPinned q a n = false := by
  rw [Bool.eq_false_iff]
  intro hp
  obtain ⟨e, he, x, hx, hb, hb'⟩ := overlapsPinned_iff.1 hp
  have := h e he x hb hb'
  omega

theorem not_pinned_of_overlapsPinned {q : List Entry} {a n : Nat} (h : overlapsPinned q a n = false) {e : Entry}
    (he : e ∈ q) {x : Nat} (hb : e.base ≤ x) (hb' : x < e.base + e.len) : x < a ∨ a + n ≤ x := by
  by_contra hx
  exact Bool.eq_false_iff.1 h (overlapsPinned_iff.2 ⟨e, he, x, by omega, hb, hb'⟩)

@[simp] theorem rangesOverlap_empty (a b lb : Nat) : rangesOverlap a 0 b lb = false := by simp [rangesOverlap]

@[simp] theorem overlapsDevice_empty (c : Config) (a : Nat) : overlapsDevice c a 0 = false := by simp [overlapsDevice]

@[simp] theorem overlapsPinned_empty (q : List Entry) (a : Nat) : overlapsPinned q a 0 = false := by
  simp [overlapsPinned]

/-! ## PLAY (R211) -/

theorem isDone_eq_decide (e : Entry) : isDone e = decide (e.state = .done) := rfl

theorem not_isDone_eq_decide (e : Entry) : (!isDone e) = decide (e.state ≠ .done) := by
  simp [isDone_eq_decide]

/-- A bounded queue is full when the entries a sweep leaves fill it (R211, D18). -/
theorem queueFull_iff {s : State} :
    queueFull s = true ↔ ∃ cap, s.cfg.queueCap = some cap ∧ cap ≤ s.queue.countP (fun e => e.state ≠ .done) := by
  have hcount : (s.queue.filter fun e => !isDone e).length = s.queue.countP fun e => e.state ≠ .done := by
    simp only [not_isDone_eq_decide, List.countP_eq_length_filter]
  cases hcap : s.cfg.queueCap <;> simp [queueFull, hcap, hcount]

theorem playRefusal_eq_none {d : Int} {b l : Nat} {s : State} (hb : b < s.cfg.memSize) (hl : l < s.cfg.memSize)
    (hbl : b + l ≤ s.cfg.memSize) (hd : overlapsDevice s.cfg b l = false) (hstart : playStart s d < 2 ^ 64)
    (hcap : ∀ cap, s.cfg.queueCap = some cap → s.queue.countP (fun e => e.state ≠ .done) < cap) :
    playRefusal d b l s = none := by
  have hfull : queueFull s = false := by
    rw [Bool.eq_false_iff]
    intro hfull
    obtain ⟨cap, hc, hle⟩ := queueFull_iff.1 hfull
    exact absurd (hcap cap hc) (Nat.not_lt.2 hle)
  have haddr : ¬(s.cfg.memSize ≤ b ∨ s.cfg.memSize ≤ l ∨ s.cfg.memSize < b + l) := by omega
  rw [playRefusal, if_neg haddr, if_neg (by simp [hd]), if_neg (Nat.not_le.2 hstart), if_neg (by simp [hfull])]

/-- The new entry waits, so the sweep of its PLAY leaves it (R211, R213). -/
theorem sweep_enqueue (d : Int) (b l : Nat) (s : State) :
    sweep (enqueue d b l s) = { s with
      queue    := newEntry d b l s :: s.queue.filter (fun e => e.state ≠ .done)
      pins     := s.pins ++ .pin b l :: unpins (s.queue.filter (fun e => e.state = .done))
      nextName := s.nextName + 1 } := by
  have hkept : (fun e => !isDone e) = fun e : Entry => decide (e.state ≠ .done) := funext not_isDone_eq_decide
  have hsweep : sweep (enqueue d b l s) = { s with
      queue    := newEntry d b l s :: s.queue.filter (fun e => !isDone e)
      pins     := s.pins ++ [.pin b l] ++ unpins (s.queue.filter isDone)
      nextName := s.nextName + 1 } := rfl
  rw [hsweep, hkept, List.append_assoc]
  rfl

theorem playCommand_accepted {d : Int} {b l : Nat} {s : State} (hf : s.fault = false)
    (hr : playRefusal d b l s = none) (hl : l % 12 = 0) : playCommand d b l s = .next (sweep (enqueue d b l s)) := by
  simp [playCommand, hf, hr, hl]

theorem playCommand_refused {d : Int} {b l : Nat} {s : State} (hf : s.fault = false)
    (hr : playRefusal d b l s ≠ none) : ∃ r, playCommand d b l s = .refused r := by
  obtain ⟨r, hr⟩ := Option.ne_none_iff_exists'.1 hr
  exact ⟨r, by simp [playCommand, hf, hr]⟩

/-! ## STOP and RENDER -/

/-- Every binding gone, an index past the pool too: it reads as a voice after reset. -/
theorem getVoice_unbound {s t : State} (h : t.voices = s.voices.map fun v => { v with req := none }) (k : Nat) :
    getVoice t k = { getVoice s k with req := none } := by
  by_cases hk : k < s.voices.length
  · simp [getVoice, h, hk]
  · simp [getVoice, h, hk, Voice.reset]

theorem renderRefusal_eq_none {dst n : Nat} {s : State} (hdst : dst < s.cfg.memSize)
    (hend : dst + 2 * n ≤ s.cfg.memSize) (hd : overlapsDevice s.cfg dst (2 * n) = false)
    (hp : overlapsPinned s.queue dst (2 * n) = false) (hclock : s.curr.toNat + n < 2 ^ 64) :
    renderRefusal dst n s = none := by
  have haddr : ¬(s.cfg.memSize ≤ dst ∨ s.cfg.memSize < dst + 2 * n) := by omega
  rw [renderRefusal, if_neg haddr, if_neg (by simp [hd]), if_neg (by simp [hp]), if_neg (Nat.not_le.2 hclock)]

theorem renderCommand_refused {dst n : Nat} {s : State} (hf : s.fault = false)
    (hr : renderRefusal dst n s ≠ none) : ∃ r, renderCommand dst n s = .refused r := by
  obtain ⟨r, hr⟩ := Option.ne_none_iff_exists'.1 hr
  exact ⟨r, by simp [renderCommand, hf, hr]⟩

/-- R217's predicate, spelled out. -/
theorem activeNow_iff {s : State} :
    activeNow s = true ↔ (∃ e ∈ s.queue, e.state = .waiting) ∨ ∃ v ∈ s.voices, v.req ≠ none := by
  simp [activeNow, isWaiting, isBound, Option.isSome_iff_ne_none]

/-! ## The register block (R44, R60) -/

/-- With 32 address bits an aligned register is below the last address where it begins below it. -/
theorem reg_fits_iff {c : Config} (hc : c.Legal) (h32 : c.addrBits = 32) {off : Nat} (hoff : off % 4 = 0) :
    c.memSize < c.regBase + off + 4 ↔ ¬c.regBase + off < 2 ^ 32 := by
  obtain ⟨-, -, -, -, -, -, -, -, -, -, halign, -⟩ := hc
  have hmem : c.memSize = 2 ^ 32 := by rw [Config.memSize, h32]
  omega

theorem hitsRegBlock_reg (c : Config) {off : Nat} (hoff : off < 36) : hitsRegBlock c (c.regBase + off) 4 = true :=
  rangesOverlap_iff.2 ⟨c.regBase + off, by omega, by omega, by rw [regBlockSize]; omega⟩

theorem accessedReg_reg {c : Config} (hc : c.Legal) (h32 : c.addrBits = 32) {off : Nat} {r : HostReg}
    (hoff : off % 4 = 0) (hr : hostReg off = some r) : accessedReg c (c.regBase + off) 4 = .next r := by
  obtain ⟨-, -, -, -, -, -, -, -, -, -, halign, -⟩ := hc
  have : (c.regBase + off) % 4 = 0 := by omega
  simp [accessedReg, h32, this, hr]

/-- A bus read of a register, at the offset of the table: its word, or the fault past the last address. -/
theorem busRead_reg {s : State} (hc : s.cfg.Legal) (h32 : s.cfg.addrBits = 32) {off : Nat} {r : HostReg}
    (hoff : off % 4 = 0) (hoff' : off < 36) (hr : hostReg off = some r) :
    busRead (s.cfg.regBase + off) 4 s =
      if s.cfg.regBase + off < 2 ^ 32 then .next { s with busOut := bytesOfWord (readReg s r) }
      else .fault .outsideMemory := by
  have hfits := reg_fits_iff hc h32 hoff
  by_cases hlt : s.cfg.regBase + off < 2 ^ 32
  · rw [busRead, if_neg (mt hfits.1 (not_not.2 hlt)), if_pos (hitsRegBlock_reg _ hoff'),
      accessedReg_reg hc h32 hoff hr, andThen_next, if_pos hlt]
  · rw [busRead, if_pos (hfits.2 hlt), if_neg hlt]

theorem wordOfBytes_bytesOfWord (w : Word) : wordOfBytes (bytesOfWord w) = w := le32_bytes w

/-- A bus write of a register, likewise. -/
theorem busWrite_reg {s : State} (hc : s.cfg.Legal) (h32 : s.cfg.addrBits = 32) {off : Nat} {r : HostReg}
    (hoff : off % 4 = 0) (hoff' : off < 36) (hr : hostReg off = some r) (w : Word) :
    busWrite (s.cfg.regBase + off) (bytesOfWord w) s =
      if s.cfg.regBase + off < 2 ^ 32 then writeReg r w s else .fault .outsideMemory := by
  have hfits := reg_fits_iff hc h32 hoff
  by_cases hlt : s.cfg.regBase + off < 2 ^ 32
  · rw [busWrite, bytesOfWord_length, if_neg (mt hfits.1 (not_not.2 hlt)), if_pos (hitsRegBlock_reg _ hoff'),
      accessedReg_reg hc h32 hoff hr, andThen_next, wordOfBytes_bytesOfWord, if_pos hlt]
  · rw [busWrite, bytesOfWord_length, if_pos (hfits.2 hlt), if_neg hlt]

/-- An access of the block of another width or alignment (R44). -/
theorem accessedReg_odd {c : Config} (h32 : c.addrBits = 32) {addr width : Nat} (h : width ≠ 4 ∨ addr % 4 ≠ 0) :
    accessedReg c addr width = .refused .registerAccess := by
  simp only [accessedReg, h32, ne_eq, not_true_eq_false, if_false]
  rw [if_pos h]

theorem cfgMisc_eq {c : Config} (hc : c.Legal) :
    c.outputBits % 2 ^ 5 + 2 ^ 8 * (c.maxVoices % 2 ^ 8) = c.outputBits + 256 * c.maxVoices := by
  obtain ⟨-, -, -, hbits, -, hvoices, -⟩ := hc
  omega

/-- The registers with the values they read, in arithmetic (R45, R46, R48). -/
theorem readReg_table {s : State} (hc : s.cfg.Legal) {off : Nat} {v : Word}
    (h : (off, v) ∈ [(0x00, 0#32), (0x04, s.arg0), (0x08, s.arg1), (0x0C, s.arg2), (0x10, statusWord s),
      (0x14, BitVec.ofNat 32 s.curr.toNat), (0x18, BitVec.ofNat 32 (s.curr.toNat / 2 ^ 32)),
      (0x1C, BitVec.ofNat 32 s.cfg.sampleRate),
      (0x20, BitVec.ofNat 32 (s.cfg.outputBits + 256 * s.cfg.maxVoices))]) :
    off % 4 = 0 ∧ off < 36 ∧ ∃ r, hostReg off = some r ∧ readReg s r = v := by
  have hlo : s.curr.extractLsb' 0 32 = BitVec.ofNat 32 s.curr.toNat := by
    simp [BitVec.extractLsb']
  have hhi : s.curr.extractLsb' 32 32 = BitVec.ofNat 32 (s.curr.toNat / 2 ^ 32) := by
    simp [BitVec.extractLsb', Nat.shiftRight_eq_div_pow]
  have hrate : s.cfg.sampleRate % 2 ^ 20 = s.cfg.sampleRate := by
    obtain ⟨-, hrate, -⟩ := hc
    exact Nat.mod_eq_of_lt (by omega)
  simp only [List.mem_cons, List.not_mem_nil, or_false, Prod.mk.injEq] at h
  rcases h with ⟨rfl, rfl⟩ | ⟨rfl, rfl⟩ | ⟨rfl, rfl⟩ | ⟨rfl, rfl⟩ | ⟨rfl, rfl⟩ | ⟨rfl, rfl⟩ | ⟨rfl, rfl⟩ |
    ⟨rfl, rfl⟩ | ⟨rfl, rfl⟩
  · exact ⟨rfl, by decide, .cmd, rfl, rfl⟩
  · exact ⟨rfl, by decide, .arg0, rfl, rfl⟩
  · exact ⟨rfl, by decide, .arg1, rfl, rfl⟩
  · exact ⟨rfl, by decide, .arg2, rfl, rfl⟩
  · exact ⟨rfl, by decide, .status, rfl, rfl⟩
  · exact ⟨rfl, by decide, .clockLo, rfl, hlo⟩
  · exact ⟨rfl, by decide, .clockHi, rfl, hhi⟩
  · exact ⟨rfl, by decide, .cfgRate, rfl, by rw [readReg, hrate]⟩
  · exact ⟨rfl, by decide, .cfgMisc, rfl, by rw [readReg, cfgMisc_eq hc]⟩

/-- The writable and the read-only registers with the state a write leaves (R45). -/
theorem writeReg_table {s t : State} {w : Word} {off : Nat}
    (h : (off, t) ∈ [(0x04, { s with arg0 := w }), (0x08, { s with arg1 := w }), (0x0C, { s with arg2 := w }),
      (0x10, s), (0x14, s), (0x18, s), (0x1C, s), (0x20, s)]) :
    off % 4 = 0 ∧ off < 36 ∧ ∃ r, hostReg off = some r ∧ writeReg r w s = .next t := by
  simp only [List.mem_cons, List.not_mem_nil, or_false, Prod.mk.injEq] at h
  rcases h with ⟨rfl, rfl⟩ | ⟨rfl, rfl⟩ | ⟨rfl, rfl⟩ | ⟨rfl, rfl⟩ | ⟨rfl, rfl⟩ | ⟨rfl, rfl⟩ | ⟨rfl, rfl⟩ | ⟨rfl, rfl⟩
  · exact ⟨rfl, by decide, .arg0, rfl, rfl⟩
  · exact ⟨rfl, by decide, .arg1, rfl, rfl⟩
  · exact ⟨rfl, by decide, .arg2, rfl, rfl⟩
  · exact ⟨rfl, by decide, .status, rfl, rfl⟩
  · exact ⟨rfl, by decide, .clockLo, rfl, rfl⟩
  · exact ⟨rfl, by decide, .clockHi, rfl, rfl⟩
  · exact ⟨rfl, by decide, .cfgRate, rfl, rfl⟩
  · exact ⟨rfl, by decide, .cfgMisc, rfl, rfl⟩

/-- A command of any kind leaves the arguments to the host (R45). -/
theorem CommandEffect.args {s t : State} (h : CommandEffect s t) : t.arg0 = s.arg0 ∧ t.arg1 = s.arg1 ∧ t.arg2 = s.arg2 := by
  cases h with
  | render _ dst n _ _ r h1 h =>
    obtain ⟨-, -, -, h0, h1, h2, -⟩ := render1_frame h1
    exact h ▸ ⟨h0, h1, h2⟩
  | nothing h | fatal _ _ _ _ _ _ h | play _ _ _ _ _ _ h | stop _ h | renderNone _ h => exact h ▸ ⟨rfl, rfl, rfl⟩

/-! ## Host memory (R62) -/

theorem getElem?_memReadBytes (m : Memory) (a n i : Nat) (hi : i < n) :
    (memReadBytes m a n)[i]? = some (memRead m (a + i)) := by
  induction n generalizing a i with
  | zero => omega
  | succ n ih =>
    cases i with
    | zero => simp [memReadBytes]
    | succ i => simpa [memReadBytes, Nat.add_assoc, Nat.add_comm 1] using ih (a + 1) i (by omega)

/-- Stored bytes are read back (R62, R71). -/
theorem memReadBytes_memWriteBytes {m : Memory} (h : Memory.wf m) (a : Nat) (bs : List Byte) :
    memReadBytes (memWriteBytes m a bs) a bs.length = bs := by
  refine List.ext_getElem? fun i => ?_
  by_cases hi : i < bs.length
  · rw [getElem?_memReadBytes _ _ _ _ hi, memRead_memWriteBytes h, if_pos (by omega), Nat.add_sub_cancel_left,
      List.getD_eq_getElem?_getD, List.getElem?_eq_getElem hi]
    rfl
  · rw [List.getElem?_eq_none (by simpa using hi), List.getElem?_eq_none (by simpa using hi)]

end Sys2Proof.Machine
end

section
/-! The statements about PLAY, STOP, the refusals, the register block, host memory and reset. -/

namespace Sys2Proof.Proofs

open Sys2Proof.Machine

/-- Settles O29: no reason of `playRefusal` holds; the sweep leaves the new entry, which waits. -/
theorem playQueuesTheRequest : Obligations.PlayQueuesTheRequest := by
  intro s base len start hf hlen hb hl hbl hd hstart hcap
  have hr := playRefusal_eq_none (d := s.arg0.toInt) hb hl hbl hd hstart hcap
  exact (playCommand_accepted hf hr hlen).trans (congrArg _ (sweep_enqueue _ _ _ s))

/-- Settles O30: past the refusals the length is checked, and the fatal fault sets its flag alone. -/
theorem playOfMisalignedLengthIsFatal : Obligations.PlayOfMisalignedLengthIsFatal := by
  intro s base len hf hlen hb hl hbl hd hstart hcap
  exact playCommand_fatal hf (playRefusal_eq_none (d := s.arg0.toInt) hb hl hbl hd hstart hcap) hlen

/-- Settles O31: a PLAY that is not refused meets none of the four reasons. -/
theorem playIsRefusedOutOfRange : Obligations.PlayIsRefusedOutOfRange := by
  intro s hf h
  refine playCommand_refused hf fun hr => ?_
  obtain ⟨-, -, hbl, hd, hstart, hfull⟩ := playRefusal_none hr
  rcases h with hrange | ⟨a, ha, ha', hb, hb'⟩ | hclock | hcap
  · exact absurd hbl (Nat.not_le.2 hrange)
  · exact Bool.eq_false_iff.1 hd (overlapsDevice_of_regBlock ha ha' hb hb')
  · exact absurd hstart (Nat.not_lt.2 hclock)
  · exact Bool.eq_false_iff.1 hfull (queueFull_iff.2 hcap)

/-- Settles O32. -/
theorem stopClearsTheQueueAndTheBindings : Obligations.StopClearsTheQueueAndTheBindings := by
  intro s hf
  have hstop : exec .stop s = .next { s with
      pins := s.pins ++ unpins s.queue, queue := [], voices := s.voices.map (fun v => { v with req := none }) } := by
    change stopCommand s = _
    simp [stopCommand, hf]
  exact ⟨_, hstop, rfl, rfl, by simp, getVoice_unbound rfl, rfl, rfl, rfl, rfl, rfl, rfl, rfl, rfl, rfl, rfl, rfl, rfl,
    rfl, rfl, rfl⟩

/-- Settles O36: an empty window overlaps nothing and takes the clock nowhere. -/
theorem renderOfNothingOnlyReports : Obligations.RenderOfNothingOnlyReports := by
  intro s hf h0 hdst
  have hn : s.arg0.toNat = 0 := by simp [h0]
  have hr : renderRefusal s.arg1.toNat 0 s = none :=
    renderRefusal_eq_none hdst (by omega) (overlapsDevice_empty _ _) (overlapsPinned_empty _ _) s.curr.isLt
  refine ⟨activeNow s, ?_, activeNow_iff⟩
  change renderCommand s.arg1.toNat s.arg0.toNat s = _
  simp [renderCommand, hf, hn, hr]

/-- Settles O38: a RENDER that is not refused meets none of the reasons. -/
theorem renderIsRefusedOutOfRange : Obligations.RenderIsRefusedOutOfRange := by
  intro s hf h
  refine renderCommand_refused hf fun hr => ?_
  obtain ⟨-, hend, hd, hp, hclock⟩ := renderRefusal_none hr
  rcases h with hrange | ⟨a, ha, ha', hreg | ⟨e, he, hb, hb'⟩⟩ | hover
  · exact absurd hend (Nat.not_le.2 hrange)
  · exact Bool.eq_false_iff.1 hd (overlapsDevice_of_regBlock ha ha' hreg.1 hreg.2)
  · exact Bool.eq_false_iff.1 hp (overlapsPinned_iff.2 ⟨e, he, a, ⟨ha, ha'⟩, hb, hb'⟩)
  · exact absurd hclock (Nat.not_lt.2 hover)

/-- Settles O7: the bytes at REG_BASE are CMD's, and the decoder gives back the word's command. -/
theorem stepRunsTheDecodedCommand : Obligations.StepRunsTheDecodedCommand := by
  intro s w rest hc h32 hp
  refine ⟨commandInstr w, decode_command_bytesOfWord w, ?_⟩
  have hbase : s.cfg.regBase + 0 < 2 ^ 32 := by
    obtain ⟨-, -, -, -, -, -, -, -, -, -, -, hbase⟩ := hc
    rwa [h32] at hbase
  have hwrite := busWrite_reg (s := { s with pending := rest }) hc h32 (off := 0) rfl (by decide) (r := .cmd) rfl w
  rw [if_pos hbase, writeReg, decodeCmdWord_eq] at hwrite
  simp only [step, hostStep, if_pos hc, hp]
  exact hwrite

/-- Settles O46. -/
theorem registerBlockReads : Obligations.RegisterBlockReads := by
  intro s off v hc h32 h
  obtain ⟨hoff, hoff', r, hr, hv⟩ := readReg_table hc h
  exact hv ▸ busRead_reg hc h32 hoff hoff' hr

/-- Settles O47: the bus writes by the table, the commands by their effects. -/
theorem argumentRegistersAreTheHosts : Obligations.ArgumentRegistersAreTheHosts := by
  refine ⟨fun s w off t hc h32 h => ?_, fun c s t h => (runCommand_effect h).args⟩
  obtain ⟨hoff, hoff', r, hr, ht⟩ := writeReg_table h
  exact ht ▸ busWrite_reg hc h32 hoff hoff' hr w

/-- Settles O48: both accesses reach the block, unless they reach past the last address first. -/
theorem oddRegisterAccessIsRefused : Obligations.OddRegisterAccessIsRefused := by
  rintro s addr bytes ⟨a, ha, ha', hb, hb'⟩ h32 hodd
  have hmem : s.cfg.memSize = 2 ^ 32 := by rw [Config.memSize, h32]
  have hhit : hitsRegBlock s.cfg addr bytes.length = true := rangesOverlap_iff.2 ⟨a, ⟨ha, ha'⟩, hb, hb'⟩
  have hacc := accessedReg_odd (c := s.cfg) h32 hodd
  by_cases hle : addr + bytes.length ≤ 2 ^ 32
  · have hin : ¬s.cfg.memSize < addr + bytes.length := by rw [hmem]; exact Nat.not_lt.2 hle
    rw [if_pos hle, perform, perform, busWrite, busRead, if_neg hin, if_neg hin, if_pos hhit, if_pos hhit, hacc]
    exact ⟨rfl, rfl⟩
  · have hout : s.cfg.memSize < addr + bytes.length := by rw [hmem]; exact Nat.not_le.1 hle
    rw [if_neg hle, perform, perform, busWrite, busRead, if_pos hout, if_pos hout]
    exact ⟨rfl, rfl⟩

/-- Settles O49. -/
theorem hostWriteToAPinnedByteIsRefused : Obligations.HostWriteToAPinnedByteIsRefused := by
  intro s addr bytes e a he hb hb' ha ha' hmem hd
  have hp : overlapsPinned s.queue addr bytes.length = true := overlapsPinned_iff.2 ⟨e, he, a, ⟨ha, ha'⟩, hb, hb'⟩
  simp [perform, busWrite, Nat.not_lt.2 hmem, hitsRegBlock_of_overlapsDevice hd, hd, hp]

/-- Settles O50: a write outside device space and pinned bytes goes to memory, and memory reads back. -/
theorem hostStoreReadsBack : Obligations.HostStoreReadsBack := by
  intro s addr bytes hwf hmem hd hpin
  refine ⟨memWriteBytes s.mem addr bytes, ?_, memReadBytes_memWriteBytes hwf addr bytes, fun a ha => ?_⟩
  · simp [perform, busWrite, Nat.not_lt.2 hmem, hitsRegBlock_of_overlapsDevice hd, hd, overlapsPinned_eq_false hpin]
  · rw [memRead_memWriteBytes hwf, if_neg (by omega)]

/-- Settles O51: every voice is the voice after reset. -/
theorem resetStateIsIdle : Obligations.ResetStateIsIdle := by
  intro c
  refine ⟨rfl, rfl, rfl, rfl, rfl, rfl, rfl, rfl, rfl, List.length_replicate, fun v hv => ?_⟩
  obtain rfl := (List.mem_replicate.1 hv).2
  exact ⟨rfl, rfl, rfl, rfl, rfl, rfl, rfl, rfl, rfl, rfl, rfl, rfl⟩

/-- Settles O52: the reset move is `engineReset`, which keeps memory and the pending moves only. -/
theorem resetMoveRestartsTheEngine : Obligations.ResetMoveRestartsTheEngine :=
  fun s => ⟨engineReset s, rfl, rfl, rfl, rfl⟩

end Sys2Proof.Proofs
end


section
/-! SUPPORT. What a window stores (R65, R174, R175), and RENDER as the loop of R219. -/

namespace Sys2Proof.Machine

/-! ## Stored samples (R65, R174, R175) -/

theorem maxval_lt {c : Config} (hc : c.Legal) : (c.maxval : Int) < 2 ^ 15 := by
  obtain ⟨-, -, -, hbits, -⟩ := hc
  have hpow : 2 ^ (c.outputBits - 1) ≤ 2 ^ 15 := Nat.pow_le_pow_right (by decide) (by omega)
  have : c.maxval < 2 ^ 15 := by rw [Config.maxval]; omega
  exact_mod_cast this

theorem saturate_range (c : Config) (x : Int) : -(c.maxval : Int) ≤ saturate c x ∧ saturate c x ≤ c.maxval := by
  simp only [saturate, clampInt]
  split_ifs <;> omega

theorem saturate_eq (c : Config) (x : Int) : saturate c x = max (-(c.maxval : Int)) (min (c.maxval : Int) x) := by
  simp only [saturate, clampInt]
  split_ifs <;> omega

/-- The halfword stored is read back as the sample it is of. -/
theorem sampleAt_memWriteHalf {m : Memory} (h : Memory.wf m) (a : Nat) {v : Int} (hv : -2 ^ 15 ≤ v) (hv' : v < 2 ^ 15) :
    sampleAt (memWriteHalf m a v) a = v := by
  have hbyte (x : Nat) := memRead_memWriteBytes h a (bytesOfHalf (BitVec.ofInt 16 v)) x
  have hlo : memRead (memWriteHalf m a v) a = (BitVec.ofInt 16 v).extractLsb' 0 8 := by
    rw [memWriteHalf, hbyte]
    simp [bytesOfHalf]
  have hhi : memRead (memWriteHalf m a v) (a + 1) = (BitVec.ofInt 16 v).extractLsb' 8 8 := by
    rw [memWriteHalf, hbyte]
    simp [bytesOfHalf]
  rw [sampleAt, hlo, hhi, le16_bytes, BitVec.toInt_ofInt, Int.bmod_eq_of_le] <;> omega

/-- Sample `j` of a window stands at `dst + 2 j`, saturated. -/
theorem sampleAt_storeSamples {c : Config} (hc : c.Legal) {m : Memory} (h : Memory.wf m) (dst : Nat) (xs : List Int)
    {j : Nat} (hj : j < xs.length) :
    sampleAt (storeSamples c dst xs m) (dst + 2 * j) = saturate c xs[j] := by
  induction xs generalizing m dst j with
  | nil => simp at hj
  | cons x xs ih =>
    cases j with
    | zero =>
      have hrange := saturate_range c x
      have hmax := maxval_lt hc
      have hkept (i : Nat) (hi : i < 2) : memRead (storeSamples c (dst + 2) xs (memWriteHalf m dst (saturate c x)))
          (dst + i) = memRead (memWriteHalf m dst (saturate c x)) (dst + i) :=
        memRead_storeSamples_outside c (memWriteHalf_wf h dst _) _ _ (.inl (by omega))
      have h0 := hkept 0 (by decide)
      have h1 := hkept 1 (by decide)
      rw [Nat.add_zero] at h0
      rw [storeSamples, Nat.mul_zero, Nat.add_zero, sampleAt, h0, h1]
      exact sampleAt_memWriteHalf h dst (by omega) (by omega)
    | succ j =>
      rw [storeSamples, show dst + 2 * (j + 1) = dst + 2 + 2 * j by omega]
      exact ih (memWriteHalf_wf h dst _) (dst + 2) (by simpa using hj)

/-! ## Leaf windows from any state (R170 to R177) -/

/-- What a leaf window leaves in memory, and where it leaves the clock and the transient fields. -/
theorem leafWindow_stores {dst n : Nat} {s : State} {r : State × Bool} (h : leafWindow dst n s = .next r) :
    r.1.curr = s.curr + BitVec.ofNat 64 n ∧ r.2 = activeNow s ∧
    ∃ xs, xs.length = n ∧ r.1.mem = storeSamples s.cfg dst xs s.mem := by
  obtain ⟨u, hu, rfl⟩ := leafWindow_next h
  obtain ⟨hcfg, hcurr, -, -, -, -, -, -, hmem, -, -, -, hacc, -⟩ := runVoices_frame hu
  have hacc : u.acc.length = n := by simpa using hacc
  refine ⟨?_, rfl, u.acc, hacc, ?_⟩
  · rw [closeWindow_curr, hacc, hcurr, openWindow_curr]
  · rw [closeWindow_mem, hcfg, hmem, openWindow_cfg, openWindow_mem]

/-- What writing STATE keeps of each entry, the voices keep (R38). -/
theorem keptByVoices_queue_map {α : Type} (f : Entry → α) (hf : ∀ e st, f { e with state := st } = f e) (l : List α) :
    KeptByVoices fun s => s.queue.map f = l where
  enter _ _ _ h := h
  sample _ h := h
  cursor _ h := h
  retire s h := (setBoundState_map f hf s.queue _ _).trans h

/-- What writing STATE keeps of each entry, a window keeps, split or not (R38). -/
theorem render1_queue_map {α : Type} (f : Entry → α) (hf : ∀ e st, f { e with state := st } = f e) {fuel dst n : Nat}
    {s : State} {r : State × Bool} (h : render1 fuel dst n s = .next r) : r.1.queue.map f = s.queue.map f := by
  refine render1_keeps (P := fun t => t.queue.map f = s.queue.map f) (fun t ht => ?_) (fun dst n t r ht hr => ?_) rfl h
  · exact schedule_keeps (P := fun u => u.queue.map f = s.queue.map f)
      (fun u e _ _ _ hu => (promote_map f hf e u).trans hu) ht
  · obtain ⟨u, hu, rfl⟩ := leafWindow_next hr
    have hq : (openWindow n t).queue.map f = s.queue.map f := ht
    have hqu := runVoices_keeps (keptByVoices_queue_map f hf _) (fun _ _ h => h) hq hu
    exact hqu

/-! ## Render1 and the loop (R215, R216, R219) -/

theorem render1_of_no_split {fuel dst n : Nat} {s : State} (h : ∀ t, (schedule s).2 = some t → n ≤ t) :
    render1 (fuel + 1) dst n s = leafWindow dst n (schedule s).1 := by
  simp only [render1]
  split
  · rename_i s1 t heq
    rw [if_neg (Nat.not_lt.2 (h t (by rw [heq]))), heq]
  · rename_i s1 heq
    rw [heq]

/-- The first part of a split needs no promotion: it is one leaf window on the scheduled state (R216, R219). -/
theorem render1_of_split {fuel dst n t : Nat} {s : State} (ht : (schedule s).2 = some t) (htn : t < n) :
    render1 (fuel + 2) dst n s = andThen (leafWindow dst t (schedule s).1) fun a =>
      andThen (render1 (fuel + 1) (dst + 2 * t) (n - t) a.1) fun b => .next (b.1, a.2 || b.2) := by
  have hsched : schedule s = ((schedule s).1, some t) := by rw [← ht]
  have hleaf : render1 (fuel + 1) dst t (schedule s).1 = leafWindow dst t (schedule s).1 := by
    rw [render1_of_no_split, schedule_schedule]
    intro u hu
    rw [schedule_schedule, ht] at hu
    exact Nat.le_of_eq (Option.some.inj hu)
  rw [render1, hsched]
  simp only [if_pos htn, hleaf]

/-- The length of the first leaf window of a RENDER of `n` samples (R219). -/
def firstLeaf (n : Nat) (s : State) : Nat := min ((schedule s).2.getD n) n

theorem firstLeaf_le (n : Nat) (s : State) : firstLeaf n s ≤ n := Nat.min_le_right _ _

theorem firstLeaf_pos {n : Nat} (hn : 1 ≤ n) (s : State) : 1 ≤ firstLeaf n s := by
  cases ht : (schedule s).2 with
  | none => simpa [firstLeaf, ht] using hn
  | some t =>
    have := schedule_time_pos ht
    simp only [firstLeaf, ht, Option.getD_some]
    omega

theorem renderLoop_succ (fuel dst n : Nat) (s : State) :
    renderLoop (fuel + 1) dst n s = andThen (leafWindow dst (firstLeaf n s) (schedule s).1) fun a =>
      if n ≤ firstLeaf n s then .next a
      else andThen (renderLoop fuel (dst + 2 * firstLeaf n s) (n - firstLeaf n s) a.1) fun b =>
        .next (b.1, a.2 || b.2) := rfl

theorem firstLeaf_of_no_split {n : Nat} {s : State} (h : ∀ t, (schedule s).2 = some t → n ≤ t) : firstLeaf n s = n := by
  cases ht : (schedule s).2 with
  | none => simp [firstLeaf, ht]
  | some t => simp [firstLeaf, ht, h t ht]

/-- The recursion is the loop, whatever fuel there is beyond the window's length. -/
theorem render1_eq_renderLoop {fuel dst n : Nat} {s : State} (hn : 1 ≤ n) (hf : n ≤ fuel) :
    render1 fuel dst n s = renderLoop fuel dst n s := by
  induction fuel generalizing dst n s with
  | zero => omega
  | succ fuel ih =>
    rw [renderLoop_succ]
    by_cases hsplit : ∃ t, (schedule s).2 = some t ∧ t < n
    · obtain ⟨t, ht, htn⟩ := hsplit
      have hpos := schedule_time_pos ht
      obtain ⟨fuel, rfl⟩ : ∃ f, fuel = f + 1 := ⟨fuel - 1, by omega⟩
      have hfirst : firstLeaf n s = t := by simp [firstLeaf, ht, Nat.le_of_lt htn]
      rw [render1_of_split ht htn, hfirst]
      refine andThen_congr fun a _ => ?_
      rw [if_neg (by omega), ih (by omega) (by omega)]
    · have hno : ∀ t, (schedule s).2 = some t → n ≤ t := fun t ht => by
        by_contra hlt
        exact hsplit ⟨t, ht, by omega⟩
      rw [render1_of_no_split hno, firstLeaf_of_no_split hno]
      cases leafWindow dst n (schedule s).1 <;> simp

/-- What a window does to the clock and to memory: it advances by the window's length, every stored sample is within
±MAXVAL, and the stores touch the window's bytes only (R65, R174, R177). -/
structure WindowDone (dst n : Nat) (s t : State) : Prop where
  cfg     : t.cfg = s.cfg
  curr    : t.curr = s.curr + BitVec.ofNat 64 n
  wf      : Memory.wf t.mem
  inside  : ∀ j, j < n → -(s.cfg.maxval : Int) ≤ sampleAt t.mem (dst + 2 * j) ∧
    sampleAt t.mem (dst + 2 * j) ≤ s.cfg.maxval
  outside : ∀ a, a < dst ∨ dst + 2 * n ≤ a → memRead t.mem a = memRead s.mem a

theorem WindowDone.of_leaf {dst n : Nat} {s : State} {r : State × Bool} (hc : s.cfg.Legal) (hm : Memory.wf s.mem)
    (h : leafWindow dst n s = .next r) : WindowDone dst n s r.1 := by
  obtain ⟨hcfg, -⟩ := leafWindow_frame h
  obtain ⟨hcurr, -, xs, hlen, hmem⟩ := leafWindow_stores h
  subst hlen
  refine ⟨hcfg, hcurr, hmem ▸ storeSamples_wf _ hm _ _, fun j hj => ?_, fun a ha => ?_⟩
  · rw [hmem, sampleAt_storeSamples hc hm _ _ hj]
    exact saturate_range _ _
  · rw [hmem, memRead_storeSamples_outside _ hm _ _ ha]

/-- Two windows side by side are one. -/
theorem WindowDone.trans {dst m n : Nat} {s t u : State} (h1 : WindowDone dst m s t)
    (h2 : WindowDone (dst + 2 * m) (n - m) t u) (hmn : m ≤ n) : WindowDone dst n s u := by
  refine ⟨h2.cfg.trans h1.cfg, ?_, h2.wf, fun j hj => ?_, fun a ha => ?_⟩
  · rw [h2.curr, h1.curr, add_assoc, ← BitVec.ofNat_add, Nat.add_sub_cancel' hmn]
  · by_cases hjm : j < m
    · have hkept (i : Nat) (hi : i < 2) : memRead u.mem (dst + 2 * j + i) = memRead t.mem (dst + 2 * j + i) :=
        h2.outside _ (.inl (by omega))
      have h0 := hkept 0 (by decide)
      have h1' := hkept 1 (by decide)
      rw [Nat.add_zero] at h0
      rw [sampleAt, h0, h1']
      exact h1.inside j hjm
    · have := h2.inside (j - m) (by omega)
      rwa [h1.cfg, show dst + 2 * m + 2 * (j - m) = dst + 2 * j by omega] at this
  · rw [h2.outside a (by omega), h1.outside a (by omega)]

theorem WindowDone.of_schedule {dst n : Nat} {s t : State} (h : WindowDone dst n (schedule s).1 t) :
    WindowDone dst n s t := by
  obtain ⟨hcfg, hcurr, -, -, -, -, -, -, -, hmem, -⟩ := schedule_frame s
  obtain ⟨h1, h2, h3, h4, h5⟩ := h
  rw [hcfg] at h1 h4
  rw [hcurr] at h2
  rw [hmem] at h5
  exact ⟨h1, h2, h3, h4, h5⟩

theorem WindowDone.of_renderLoop {fuel dst n : Nat} {s : State} {r : State × Bool} (hc : s.cfg.Legal)
    (hm : Memory.wf s.mem) (hn : 1 ≤ n) (hf : n ≤ fuel) (h : renderLoop fuel dst n s = .next r) :
    WindowDone dst n s r.1 := by
  induction fuel generalizing dst n s r with
  | zero => omega
  | succ fuel ih =>
    obtain ⟨hcfg, -, -, -, -, -, -, -, -, hmem, -⟩ := schedule_frame s
    rw [renderLoop_succ] at h
    obtain ⟨a, ha, h⟩ := andThen_eq_next.1 h
    have hleaf := WindowDone.of_leaf (hcfg ▸ hc) (hmem ▸ hm) ha
    split at h
    · rename_i hle
      injection h with h
      have hall : firstLeaf n s = n := Nat.le_antisymm (firstLeaf_le n s) hle
      exact h ▸ (hall ▸ hleaf).of_schedule
    · obtain ⟨b, hb, h⟩ := andThen_eq_next.1 h
      injection h with h
      subst h
      have hpos := firstLeaf_pos hn s
      have hrest := ih (by rw [hleaf.cfg, hcfg]; exact hc) hleaf.wf (by omega) (by omega) hb
      exact (hleaf.trans hrest (firstLeaf_le n s)).of_schedule

/-- A RENDER that answers on a live engine has done its window (the empty window, too). -/
theorem WindowDone.of_renderCommand {dst n : Nat} {s t : State} (hc : s.cfg.Legal) (hm : Memory.wf s.mem)
    (hf : s.fault = false) (h : renderCommand dst n s = .next t) : WindowDone dst n s t := by
  rcases renderCommand_next h with ⟨hdead, -⟩ | ⟨-, -, rfl, rfl⟩ | ⟨-, -, hn, r, hr, rfl⟩
  · simp [hf] at hdead
  · exact ⟨rfl, by simp, hm, fun j hj => absurd hj (Nat.not_lt_zero j), fun _ _ => rfl⟩
  · rw [render1_eq_renderLoop hn (Nat.le_refl n)] at hr
    obtain ⟨h1, h2, h3, h4, h5⟩ := WindowDone.of_renderLoop hc hm hn (Nat.le_refl n) hr
    exact ⟨h1, h2, h3, h4, h5⟩

/-- From any state, a window advances the clock by its length. -/
theorem render1_curr {fuel dst n : Nat} {s : State} {r : State × Bool} (hn : 1 ≤ n) (hf : n ≤ fuel)
    (h : render1 fuel dst n s = .next r) : r.1.curr = s.curr + BitVec.ofNat 64 n := by
  rw [render1_eq_renderLoop hn hf] at h
  induction fuel generalizing dst n s r with
  | zero => omega
  | succ fuel ih =>
    rw [renderLoop_succ] at h
    obtain ⟨a, ha, h⟩ := andThen_eq_next.1 h
    obtain ⟨hcurr, -⟩ := leafWindow_stores ha
    rw [schedule_curr] at hcurr
    split at h
    · rename_i hle
      injection h with h
      rw [← h, hcurr, Nat.le_antisymm (firstLeaf_le n s) hle]
    · rename_i hle
      obtain ⟨b, hb, h⟩ := andThen_eq_next.1 h
      injection h with h
      subst h
      have hpos := firstLeaf_pos hn s
      have hrest := ih (by omega) (by omega) hb
      rw [hrest, hcurr, add_assoc, ← BitVec.ofNat_add, Nat.add_sub_cancel' (Nat.le_of_not_le hle)]

/-! ## The result (R217, R218) -/

theorem leafWindow_result {dst n : Nat} {s : State} {r : State × Bool} (h : leafWindow dst n s = .next r) :
    r.2 = activeNow s := (leafWindow_stores h).2.1

/-- Something waits where a time is left, so the engine is active (R188, R217). -/
theorem activeNow_of_time {s : State} {t : Nat} (h : (schedule s).2 = some t) : activeNow (schedule s).1 = true := by
  have hends := schedule_ends s
  obtain ⟨hnone, -⟩ := scanQueue_least hends
  by_contra hidle
  have hall : ∀ e ∈ (schedule s).1.queue, e.state ≠ .waiting := fun e he hw =>
    hidle (activeNow_iff.2 (.inl ⟨e, he, hw⟩))
  rw [hnone.2 ⟨rfl, hall⟩] at h
  cases h

/-- A promotion binds a voice, so the engine is active after it. -/
theorem activeNow_promote (e : Entry) {s : State} (hvs : s.voices ≠ []) : activeNow (promote e s) = true := by
  refine activeNow_iff.2 (.inr ⟨bindVoice e s.curr (getVoice s (chooseVoice s.voices)), ?_, by simp⟩)
  exact List.mem_set (chooseVoice_lt hvs) _

/-- A scheduling step leaves an idle engine idle and an active one active. -/
theorem activeNow_schedule {s : State} (hvs : s.voices ≠ []) : activeNow (schedule s).1 = activeNow s := by
  have hkept : activeNow (schedule s).1 = activeNow s ∧ (schedule s).1.voices ≠ [] := by
    refine schedule_keeps (P := fun t => activeNow t = activeNow s ∧ t.voices ≠ []) ?_ ⟨rfl, hvs⟩
    rintro t e he hw - ⟨hact, hne⟩
    have hactive : activeNow t = true := activeNow_iff.2 (.inl ⟨e, he, by simpa [isWaiting] using hw⟩)
    refine ⟨by rw [activeNow_promote e hne, ← hact, hactive], fun h => hne ?_⟩
    simpa using congrArg List.length h
  exact hkept.1

/-- The result of a window is the activity it starts from: its first leaf window reports it, and where a second one
follows something waits (R217, R218). -/
theorem renderLoop_result {fuel dst n : Nat} {s : State} {r : State × Bool} (hvs : s.voices ≠ [])
    (hf : 1 ≤ fuel) (h : renderLoop fuel dst n s = .next r) : r.2 = activeNow s := by
  obtain ⟨fuel, rfl⟩ : ∃ f, fuel = f + 1 := ⟨fuel - 1, by omega⟩
  rw [renderLoop_succ] at h
  obtain ⟨a, ha, h⟩ := andThen_eq_next.1 h
  have hfirst := leafWindow_result ha
  rw [activeNow_schedule hvs] at hfirst
  split at h
  · injection h with h
    exact h ▸ hfirst
  · rename_i hle
    obtain ⟨b, hb, h⟩ := andThen_eq_next.1 h
    injection h with h
    cases ht : (schedule s).2 with
    | none => exact absurd (by simp [firstLeaf, ht]) hle
    | some t =>
      have hactive := activeNow_of_time ht
      rw [activeNow_schedule hvs] at hactive
      simp [← h, hfirst, hactive]

/-! ## After STOP (R214) -/

/-- With every voice free a leaf window adds nothing (R172). -/
theorem runVoices_of_unbound {s : State} (h : ∀ v ∈ s.voices, v.req = none) (ks : List Nat) :
    runVoices ks s = .next s := by
  have hfree (k : Nat) : isBound (getVoice s k) = false := by
    by_contra hb
    rw [Bool.not_eq_false] at hb
    have := h _ (getVoice_mem (lt_of_isBound hb))
    simp [isBound, this] at hb
  induction ks with
  | nil => rfl
  | cons k ks ih => simp [runVoices, hfree, ih]

/-- A RENDER of the idle engine is one leaf window of zeros. -/
theorem renderCommand_idle {dst n : Nat} {s : State} (hf : s.fault = false) (hq : s.queue = [])
    (hv : ∀ v ∈ s.voices, v.req = none) (hr : renderRefusal dst n s = none) (hn : 1 ≤ n) :
    renderCommand dst n s = .next { closeWindow dst (openWindow n s) with active := false } := by
  have hsched : schedule s = (s, none) := schedule_of_none (by simp [hq, scanQueue])
  have hidle : activeNow s = false := by
    rw [Bool.eq_false_iff]
    intro hact
    rcases activeNow_iff.1 hact with ⟨e, he, -⟩ | ⟨v, hmem, hb⟩
    · simp [hq] at he
    · exact hb (hv v hmem)
  have hleaf : leafWindow dst n s = .next (closeWindow dst (openWindow n s), false) := by
    rw [leafWindow, runVoices_of_unbound (by simpa using hv), andThen_next, hidle]
  obtain ⟨n, rfl⟩ : ∃ m, n = m + 1 := ⟨n - 1, by omega⟩
  refine renderCommand_of_render1 hf hr hn ?_
  rw [render1_of_no_split (by simp [hsched]), hsched, hleaf]

end Sys2Proof.Machine
end

section
/-! The statements about RENDER that hold from any state, and about what every step leaves alone. -/

namespace Sys2Proof.Proofs

open Sys2Proof.Machine

/-- Settles O40. -/
theorem renderIsALoop : Obligations.RenderIsALoop := fun _ _ _ hn => render1_eq_renderLoop hn (Nat.le_refl _)

/-- Settles O39: the first part is a leaf window on a state in which something waits. -/
theorem splitResultIsTheOrAndIsOne : Obligations.SplitResultIsTheOrAndIsOne := by
  intro s u fuel dst n t b ht htn h hf
  have hsched : schedule s = ((schedule s).1, some t) := by rw [← ht]
  have hpos := schedule_time_pos ht
  rw [render1, hsched] at h
  simp only [if_pos htn] at h
  obtain ⟨a, ha, h⟩ := andThen_eq_next.1 h
  obtain ⟨c, hc, h⟩ := andThen_eq_next.1 h
  injection h with h
  obtain ⟨rfl, rfl⟩ := Prod.mk.injEq _ _ _ _ ▸ h
  have hfirst : a.2 = true := by
    obtain ⟨fuel, rfl⟩ : ∃ f, fuel = f + 1 := ⟨fuel - 1, by omega⟩
    have hno : ∀ x, (schedule (schedule s).1).2 = some x → t ≤ x := fun x hx => by
      rw [schedule_schedule, ht] at hx
      exact Nat.le_of_eq (Option.some.inj hx)
    rw [render1_of_no_split hno, schedule_schedule] at ha
    exact (leafWindow_result ha).trans (activeNow_of_time ht)
  exact ⟨a.1, a.2, c.2, hfirst, by simp [hfirst], ha, hc, rfl⟩

/-- Settles O37: an empty window reports the activity itself, any other by its loop; a legal engine has a voice. -/
theorem renderReportsActivityAtItsStart : Obligations.RenderReportsActivityAtItsStart := by
  intro s t hinv hf h
  obtain ⟨⟨-, -, -, -, hvoices, -⟩, -, -, ⟨hlen, -⟩, -⟩ := hinv
  have hvs : s.voices ≠ [] := by
    rintro hnil
    simp [hnil] at hlen
    omega
  rw [← activeNow_iff]
  rcases renderCommand_next (dst := s.arg1.toNat) (n := s.arg0.toNat) h with
    ⟨hdead, -⟩ | ⟨-, -, -, rfl⟩ | ⟨-, -, hn, r, hr, rfl⟩
  · simp [hf] at hdead
  · rfl
  · rw [render1_eq_renderLoop hn (Nat.le_refl _)] at hr
    simp only [renderLoop_result hvs hn hr]

/-- Settles O33: STOP leaves no entry and no binding, and a window of zeros is stored as zeros. -/
theorem renderAfterStopIsSilent : Obligations.RenderAfterStopIsSilent := by
  intro s t dst n hc hm hf hstop hdst hend hd hclock
  rcases stopCommand_next hstop with ⟨hdead, -⟩ | ⟨-, ht⟩
  · simp [hf] at hdead
  have hr : renderRefusal dst n t = none := by
    subst ht
    exact renderRefusal_eq_none hdst hend hd rfl hclock
  have hq : t.queue = [] := by rw [ht]
  have hv : ∀ v ∈ t.voices, v.req = none := by simp [ht]
  have hft : t.fault = false := by rw [ht]; exact hf
  have hcurr : (s.curr + BitVec.ofNat 64 n).toNat = s.curr.toNat + n := by
    rw [BitVec.toNat_add, BitVec.toNat_ofNat]
    omega
  rcases Nat.eq_zero_or_pos n with rfl | hn
  · refine ⟨{ t with active := activeNow t }, by simp [renderCommand, hft, hr], ?_, ?_, by simp, ?_⟩
    · simp [activeNow, ht, isBound]
    · simp [ht]
    · simp [ht]
  · refine ⟨_, renderCommand_idle hft hq hv hr hn, rfl, ?_, fun j hj => ?_, fun a ha => ?_⟩
    · simpa [ht] using hcurr
    · have hstore := sampleAt_storeSamples hc hm dst (List.replicate n (0 : Int)) (j := j) (by simpa using hj)
      simp only [List.getElem_replicate] at hstore
      have hzero : saturate s.cfg 0 = 0 := by rw [saturate_eq]; omega
      simpa [ht, hzero] using hstore
    · have hkept := memRead_storeSamples_outside s.cfg hm dst (List.replicate n (0 : Int)) (a := a) (by simpa using ha)
      simpa [ht] using hkept

/-- Settles O54: RENDER by its loop, and every other effect of a move leaves the clock. -/
theorem clockCountsRenderedSamples : Obligations.ClockCountsRenderedSamples := by
  refine ⟨fun s t dst n hf h => ?_, fun s t d base len h => ?_, fun s t h => ?_, fun s t a ha h => ?_⟩
  · rcases renderCommand_next h with ⟨hdead, -⟩ | ⟨-, -, rfl, rfl⟩ | ⟨-, href, hn, r, hr, rfl⟩
    · simp [hf] at hdead
    · rfl
    · obtain ⟨-, -, -, -, hclock⟩ := renderRefusal_none href
      rw [render1_curr hn (Nat.le_refl n) hr, BitVec.toNat_add, BitVec.toNat_ofNat]
      omega
  · rcases playCommand_next h with ⟨-, rfl⟩ | ⟨-, -, -, rfl⟩ | ⟨-, -, -, rfl⟩ <;> rfl
  · rcases stopCommand_next h with ⟨-, rfl⟩ | ⟨-, rfl⟩ <;> rfl
  · cases perform_effect h with
    | read _ h | store _ _ _ _ h => exact .inl (h ▸ rfl)
    | arg _ h => rcases h with rfl | rfl | rfl <;> exact .inl rfl
    | reset hr => exact absurd hr ha
    | command h =>
      cases h with
      | render hf dst n href hn r hr h => exact .inr ⟨dst, n, h ▸ renderCommand_of_render1 hf href hn hr⟩
      | nothing h | fatal _ _ _ _ _ _ h | play _ _ _ _ _ _ h | stop _ h | renderNone _ h => exact .inl (h ▸ rfl)

end Sys2Proof.Proofs
end


section
/-! SUPPORT. What every step keeps from any state: the configuration, the memory's canonical form, and the balance of the
pin port. -/

namespace Sys2Proof.Machine

/-! ## The configuration and the memory's form (R5) -/

/-- `t` has the configuration of `s`, and a canonical memory where `s` has one. -/
def SameForm (s t : State) : Prop := t.cfg = s.cfg ∧ (Memory.wf s.mem → Memory.wf t.mem)

theorem SameForm.refl (s : State) : SameForm s s := ⟨rfl, id⟩

theorem SameForm.render1 {fuel dst n : Nat} {s : State} {r : State × Bool} (h : render1 fuel dst n s = .next r) :
    SameForm s r.1 := by
  refine render1_keeps (P := SameForm s) (fun t ht => ?_) (fun dst n t r ht hr => ?_) (SameForm.refl s) h
  · obtain ⟨hcfg, -, -, -, -, -, -, -, -, hmem, -⟩ := schedule_frame t
    exact ⟨hcfg.trans ht.1, fun hwf => hmem ▸ ht.2 hwf⟩
  · obtain ⟨hcfg, -⟩ := leafWindow_frame hr
    obtain ⟨-, -, xs, -, hmem⟩ := leafWindow_stores hr
    exact ⟨hcfg.trans ht.1, fun hwf => hmem ▸ storeSamples_wf _ (ht.2 hwf) _ _⟩

theorem CommandEffect.sameForm {s t : State} (h : CommandEffect s t) : SameForm s t := by
  cases h with
  | render _ dst n _ _ r h1 h => exact h ▸ SameForm.render1 h1
  | nothing h | fatal _ _ _ _ _ _ h | play _ _ _ _ _ _ h | stop _ h | renderNone _ h => exact h ▸ SameForm.refl s

theorem MoveEffect.sameForm {a : HostAction} {s t : State} (h : MoveEffect a s t) : SameForm s t := by
  cases h with
  | command h => exact h.sameForm
  | store addr bs _ _ h => exact h ▸ ⟨rfl, fun hwf => memWriteBytes_wf hwf addr bs⟩
  | arg _ h => rcases h with rfl | rfl | rfl <;> exact SameForm.refl s
  | read _ h | reset _ h => exact h ▸ ⟨rfl, id⟩

/-! ## The pin port (R68) -/

/-- The buffer an entry pins. -/
def Entry.buffer (e : Entry) : Nat × Nat := (e.base, e.len)

theorem countP_buffer (q : List Entry) (b l : Nat) :
    q.countP (fun e => e.base == b && e.len == l) = (q.map Entry.buffer).count (b, l) := by
  rw [List.count, List.countP_map]
  refine List.countP_congr fun e _ => ?_
  simp [Entry.buffer]

theorem count_pin_unpins (q : List Entry) (b l : Nat) : (unpins q).count (.pin b l) = 0 := by
  simp [unpins, List.count_eq_zero]

theorem count_unpin_unpins (q : List Entry) (b l : Nat) :
    (unpins q).count (.unpin b l) = (q.map Entry.buffer).count (b, l) := by
  induction q with
  | nil => rfl
  | cons e q ih =>
    simp only [unpins] at ih
    simp only [unpins, List.map_cons, List.count_cons, ih, Entry.buffer]
    congr 1
    simp

/-- The balance with the entries' buffers counted as a list. -/
theorem pinsBalanced_iff {s : State} : PinsBalanced s ↔ ∀ b l,
    s.pins.count (.pin b l) = s.pins.count (.unpin b l) + (s.queue.map Entry.buffer).count (b, l) := by
  simp only [PinsBalanced, countP_buffer]

/-- A step that emits nothing and keeps the entries' buffers keeps the balance. -/
theorem PinsBalanced.of_same {s t : State} (h : PinsBalanced s) (hp : t.pins = s.pins)
    (hq : t.queue.map Entry.buffer = s.queue.map Entry.buffer) : PinsBalanced t := by
  rw [pinsBalanced_iff] at h ⊢
  rw [hp, hq]
  exact h

theorem PinsBalanced.enqueue {s : State} (h : PinsBalanced s) (d : Int) (b l : Nat) : PinsBalanced (enqueue d b l s) := by
  rw [pinsBalanced_iff] at h ⊢
  intro b' l'
  have hbuffer : (newEntry d b l s).buffer = (b, l) := rfl
  rw [enqueue_pins, enqueue_queue, List.map_cons, hbuffer, List.count_append, List.count_append, h b' l',
    List.count_singleton, List.count_singleton, List.count_cons]
  have hunpin : (PinEvent.pin b l == PinEvent.unpin b' l') = false := by simp
  have hpin : (PinEvent.pin b l == PinEvent.pin b' l') = ((b, l) == (b', l')) := by
    rw [Bool.eq_iff_iff]; simp
  rw [hpin, hunpin]
  simp only [Bool.false_eq_true, if_false]
  omega

theorem PinsBalanced.sweep {s : State} (h : PinsBalanced s) : PinsBalanced (sweep s) := by
  rw [pinsBalanced_iff] at h ⊢
  intro b l
  have hsplit : (s.queue.map Entry.buffer).count (b, l) =
      ((s.queue.filter isDone).map Entry.buffer).count (b, l) +
        ((s.queue.filter fun e => !isDone e).map Entry.buffer).count (b, l) := by
    rw [← List.count_append, ← List.map_append]
    exact (((List.filter_append_perm isDone s.queue).map Entry.buffer).count_eq (b, l)).symm
  rw [sweep_pins, sweep_queue, List.count_append, List.count_append, count_pin_unpins, count_unpin_unpins, h b l, hsplit]
  omega

theorem PinsBalanced.stop {s : State} (h : PinsBalanced s) {vs : List Voice} :
    PinsBalanced { s with pins := s.pins ++ unpins s.queue, queue := [], voices := vs } := by
  rw [pinsBalanced_iff] at h ⊢
  intro b l
  simp only [List.count_append, count_pin_unpins, count_unpin_unpins, h b l, List.map_nil, List.count_nil]

theorem CommandEffect.pinsBalanced {s t : State} (h : CommandEffect s t) (hs : PinsBalanced s) : PinsBalanced t := by
  cases h with
  | play _ d b l _ _ h => exact h ▸ (hs.enqueue d b l).sweep
  | stop _ h => exact h ▸ hs.stop
  | render _ dst n _ _ r h1 h =>
    obtain ⟨-, -, -, -, -, -, hpins, -⟩ := render1_frame h1
    exact h ▸ hs.of_same hpins (render1_queue_map Entry.buffer (fun _ _ => rfl) h1)
  | nothing h | fatal _ _ _ _ _ _ h | renderNone _ h => exact h ▸ hs.of_same rfl rfl

theorem MoveEffect.pinsBalanced {a : HostAction} {s t : State} (h : MoveEffect a s t) (hs : PinsBalanced s) :
    PinsBalanced t := by
  cases h with
  | command h => exact h.pinsBalanced hs
  | arg _ h => rcases h with rfl | rfl | rfl <;> exact hs.of_same rfl rfl
  | reset _ h => exact h ▸ fun _ _ => rfl
  | read _ h | store _ _ _ _ h => exact h ▸ hs.of_same rfl rfl

end Sys2Proof.Machine
end

section
/-! The statements about what every step keeps from any state. -/

namespace Sys2Proof.Proofs

open Sys2Proof.Machine

/-- Settles O55: each effect of a move is of the same form. -/
theorem stepKeepsConfigurationAndMemoryForm : Obligations.StepKeepsConfigurationAndMemoryForm := by
  intro s t h
  obtain ⟨-, ⟨-, rfl⟩ | ⟨a, rest, -, hmove⟩⟩ := step_effect h
  · exact SameForm.refl _
  · exact hmove.sameForm

/-- Settles O59: PLAY pins what it queues and unpins what it sweeps, STOP unpins all. -/
theorem stepKeepsPinsBalanced : Obligations.StepKeepsPinsBalanced := by
  intro s t hs h
  obtain ⟨-, ⟨-, rfl⟩ | ⟨a, rest, -, hmove⟩⟩ := step_effect h
  · exact hs
  · exact hmove.pinsBalanced (hs.of_same rfl rfl)

end Sys2Proof.Proofs
end


section
/-! SUPPORT. A voice by itself: one turn of the block of R159 as a function of the voice's registers, its program and the
noise stream, and the run of a whole leaf window in these terms. -/

namespace Sys2Proof.Machine

/-! ## The voice's own functions -/

/-- Where a voice's instructions come from: the parameters, the memory and the BASE of its request (R63). -/
structure Program where
  cfg  : Config
  mem  : Memory
  base : Nat

/-- The BASE of the entry a voice names; no matter for a voice that names none. -/
def programBase (q : List Entry) (v : Voice) : Nat := ((v.req.bind (findEntry q)).map Entry.base).getD 0

/-- The program of a voice in a state. -/
def programOf (s : State) (v : Voice) : Program := ⟨s.cfg, s.mem, programBase s.queue v⟩

theorem programOf_eq {s t : State} {v w : Voice} (hcfg : t.cfg = s.cfg) (hmem : t.mem = s.mem)
    (hq : t.queue = s.queue) (hr : w.req = v.req) : programOf t w = programOf s v := by
  simp only [programOf, programBase, hcfg, hmem, hq, hr]

/-- The voice with the instruction at its cursor entered (R140). -/
def enteredVoice (p : Program) (v : Voice) : Voice :=
  enterVoice p.cfg (memRead p.mem (p.base + 12 * v.cur)) (clampOps (opsAt p.mem (p.base + 12 * v.cur))) v

/-- The voice as it makes its next sample: a fresh one has entered its first instruction (R154). -/
def startedVoice (p : Program) (v : Voice) : Voice := if v.cv then v else enteredVoice p v

/-- The voice makes a sample at its next turn: it is bound, and not to a request it finds empty (R158). -/
def sounds (v : Voice) : Bool := isBound v && (v.cv || !exhausted v)

/-- The voice after a sample: at the end of its instruction it goes on to the next one or retires (R152, R153). -/
def settledVoice (p : Program) (w : Voice) : Voice :=
  if w.sleft = 0#32 then
    if isBound (finishVoice w) then enteredVoice p (finishVoice w) else finishVoice w
  else w

/-- The voice after a turn. -/
def nextVoice (p : Program) (v : Voice) : Voice :=
  if sounds v then settledVoice p (advanceVoice (startedVoice p v)) else { v with req := none }

/-- G.NOISE after a turn. -/
def nextNoise (p : Program) (v : Voice) (x : Word) : Word :=
  if sounds v then (waveGen p.cfg (startedVoice p v).wave (phaseIdx (startedVoice p v).phase) x).2 else x

/-- What a turn adds to its sample. -/
def sampleOf (p : Program) (v : Voice) (x : Word) : Int :=
  if sounds v then
    contribution p.cfg (waveGen p.cfg (startedVoice p v).wave (phaseIdx (startedVoice p v).phase) x).1
      (startedVoice p v).vol
  else 0

/-- G.NOISE after `n` turns. -/
def noiseRun (p : Program) : Nat → Voice → Word → Word
  | 0, _, x => x
  | n + 1, v, x => noiseRun p n (nextVoice p v) (nextNoise p v x)

/-- What turn `j` adds to its sample. -/
def sampleRun (p : Program) : Nat → Voice → Word → Int
  | 0, v, x => sampleOf p v x
  | j + 1, v, x => sampleRun p j (nextVoice p v) (nextNoise p v x)

/-! ## A voice that has retired -/

theorem sounds_of_unbound {v : Voice} (h : isBound v = false) : sounds v = false := by simp [sounds, h]

theorem unbound_iff {v : Voice} : isBound v = false ↔ v.req = none := by simp [isBound]

theorem nextVoice_of_unbound (p : Program) {v : Voice} (h : isBound v = false) : nextVoice p v = v := by
  have hreq := unbound_iff.1 h
  rw [nextVoice, sounds_of_unbound h, ← hreq]
  rfl

theorem nextVoice_iterate_of_unbound (p : Program) {v : Voice} (h : isBound v = false) (n : Nat) :
    (nextVoice p)^[n] v = v := Function.iterate_fixed (nextVoice_of_unbound p h) n

theorem nextNoise_of_unbound (p : Program) {v : Voice} (h : isBound v = false) (x : Word) : nextNoise p v x = x := by
  simp [nextNoise, sounds_of_unbound h]

theorem sampleOf_of_unbound (p : Program) {v : Voice} (h : isBound v = false) (x : Word) : sampleOf p v x = 0 := by
  simp [sampleOf, sounds_of_unbound h]

theorem noiseRun_of_unbound (p : Program) {v : Voice} (h : isBound v = false) (n : Nat) (x : Word) :
    noiseRun p n v x = x := by
  induction n with
  | zero => rfl
  | succ n ih => rw [noiseRun, nextVoice_of_unbound p h, nextNoise_of_unbound p h, ih]

theorem sampleRun_of_unbound (p : Program) {v : Voice} (h : isBound v = false) (j : Nat) (x : Word) :
    sampleRun p j v x = 0 := by
  induction j with
  | zero => exact sampleOf_of_unbound p h x
  | succ j ih => rw [sampleRun, nextVoice_of_unbound p h, nextNoise_of_unbound p h, ih]

/-! ## What a turn keeps -/

/-- A turn keeps the binding or ends it. -/
theorem nextVoice_req (p : Program) (v : Voice) : (nextVoice p v).req = v.req ∨ (nextVoice p v).req = none := by
  have hstarted : (startedVoice p v).req = v.req := by
    simp only [startedVoice]
    split <;> rfl
  simp only [nextVoice, settledVoice]
  split
  · split
    · split
      · simp only [enteredVoice, enterVoice_req, finishVoice, advanceVoice_req, hstarted]
        split <;> simp
      · simp only [finishVoice, advanceVoice_req, hstarted]
        split <;> simp
    · exact .inl hstarted
  · exact .inr rfl

theorem nextVoice_iterate_req (p : Program) (n : Nat) (v : Voice) :
    ((nextVoice p)^[n] v).req = v.req ∨ ((nextVoice p)^[n] v).req = none := by
  induction n with
  | zero => exact .inl rfl
  | succ n ih =>
    rw [Function.iterate_succ_apply']
    rcases nextVoice_req p ((nextVoice p)^[n] v) with h | h
    · exact h.symm ▸ ih
    · exact .inr h

theorem bound_of_nextVoice_iterate {p : Program} {n : Nat} {v : Voice} (h : isBound ((nextVoice p)^[n] v) = true) :
    ((nextVoice p)^[n] v).req = v.req ∧ isBound v = true := by
  rcases nextVoice_iterate_req p n v with hr | hr
  · exact ⟨hr, by rwa [isBound, hr] at h⟩
  · simp [isBound, hr] at h

theorem nextVoice_endIdx (p : Program) (v : Voice) : (nextVoice p v).endIdx = v.endIdx := by
  have hstarted : (startedVoice p v).endIdx = v.endIdx := by
    simp only [startedVoice]
    split <;> rfl
  simp only [nextVoice, settledVoice]
  split
  · split
    · split <;> exact hstarted
    · exact hstarted
  · rfl

/-- A voice in an instruction is started as it is. -/
theorem startedVoice_of_cv (p : Program) {v : Voice} (h : v.cv = true) : startedVoice p v = v := by
  simp [startedVoice, h]

theorem sounds_of_cv {v : Voice} (hb : isBound v = true) (h : v.cv = true) : sounds v = true := by
  simp [sounds, hb, h]

/-! ## Names and bases -/

/-- Writing STATE changes no BASE and no name. -/
theorem findEntry_setBoundState_base (q : List Entry) (r : Option Nat) (st : EntryState) (n : Nat) :
    (findEntry (setBoundState q r st) n).map Entry.base = (findEntry q n).map Entry.base := by
  rw [setBoundState_eq_map]
  induction q with
  | nil => rfl
  | cons e q ih =>
    have hname : (if r = some e.name then { e with state := st } else e).name = e.name := by split <;> rfl
    have hbase : (if r = some e.name then { e with state := st } else e).base = e.base := by split <;> rfl
    simp only [findEntry, List.map_cons, List.find?_cons, hname] at ih ⊢
    by_cases hn : (e.name == n) = true
    · simp only [hn, Option.map_some, hbase]
    · rw [Bool.not_eq_true] at hn
      simp only [hn]
      exact ih

theorem programBase_setBoundState (q : List Entry) (r : Option Nat) (st : EntryState) (v : Voice) :
    programBase (setBoundState q r st) v = programBase q v := by
  cases hv : v.req with
  | none => simp [programBase, hv]
  | some n => simp [programBase, hv, findEntry_setBoundState_base]

/-- The voice's program is in Q and in memory up to its end (R40, R69). -/
def ProgramFits (s : State) (v : Voice) : Prop :=
  ∃ name e, v.req = some name ∧ findEntry s.queue name = some e ∧ e.base + 12 * v.endIdx ≤ s.cfg.memSize

theorem ProgramFits.base {s : State} {v : Voice} {name : Nat} {e : Entry} (hr : v.req = some name)
    (he : findEntry s.queue name = some e) : programBase s.queue v = e.base := by
  simp [programBase, hr, he]

/-! ## One turn in the state -/

theorem decode_memReadBytes (m : Memory) (a : Nat) :
    decode .program (memReadBytes m a 12) = .ok (soundInstr (memRead m a) (opsAt m a)) [] := by
  simp [memReadBytes, decode, decodeSound, opsAt, Nat.add_assoc]

/-- Entering at the cursor of a program that fits writes the served voice. -/
theorem enterAtCursor_eq {s : State} (hfit : ProgramFits s (getVoice s s.srvVoice))
    (hcur : (getVoice s s.srvVoice).cur < (getVoice s s.srvVoice).endIdx) :
    enterAtCursor s = .next (setVoice s s.srvVoice
      (enteredVoice (programOf s (getVoice s s.srvVoice)) (getVoice s s.srvVoice))) := by
  obtain ⟨name, e, hr, he, hmem⟩ := hfit
  have hbase := ProgramFits.base hr he
  have hfetch := fetchBytes_of_entry hr he (by omega)
  simp only [enterAtCursor, hfetch, andThen_next, decode_memReadBytes, soundInstr_sound, programOf, hbase]
  rfl

/-- The queue after a turn: while the voice is bound it stays, when the voice has retired its request is Done (R153). -/
def retireUnless (bound : Bool) (r : Option Nat) (q : List Entry) : List Entry :=
  match bound with
  | true => q
  | false => setBoundState q r .done

@[simp] theorem retireUnless_true (r : Option Nat) (q : List Entry) : retireUnless true r q = q := rfl

@[simp] theorem retireUnless_false (r : Option Nat) (q : List Entry) :
    retireUnless false r q = setBoundState q r .done := rfl

/-- The state after a turn of the served voice. -/
def voiceTurn (p : Program) (s : State) : State :=
  let v := getVoice s s.srvVoice
  { s with
    voices := s.voices.set s.srvVoice (nextVoice p v)
    noise  := nextNoise p v s.noise
    acc    := s.acc.modify s.srvPos (· + sampleOf p v s.noise)
    srvPos := if sounds v then s.srvPos + 1 else s.srvPos
    queue  := retireUnless (isBound (nextVoice p v)) v.req s.queue }

/-- A fresh voice makes its first turn as if its instruction had been entered before it (R154). -/
theorem turn_of_entered {p : Program} {v : Voice} (hb : isBound v = true) (hcv : v.cv = false)
    (hcur : v.cur < v.endIdx) :
    sounds v = true ∧ sounds (enteredVoice p v) = true ∧ nextVoice p (enteredVoice p v) = nextVoice p v ∧
    ∀ x, nextNoise p (enteredVoice p v) x = nextNoise p v x ∧ sampleOf p (enteredVoice p v) x = sampleOf p v x := by
  have hsounds : sounds v = true := by simp [sounds, hb, exhausted, hcur]
  have hsounds' : sounds (enteredVoice p v) = true := sounds_of_cv (v := enteredVoice p v) hb rfl
  have hstart : startedVoice p v = enteredVoice p v := by simp [startedVoice, hcv]
  have hstart' : startedVoice p (enteredVoice p v) = enteredVoice p v := startedVoice_of_cv p rfl
  simp only [nextVoice, nextNoise, sampleOf, hsounds, hsounds', hstart, hstart', if_true, implies_true, and_self]

/-- The turn of a voice in an instruction is its sample with the voice settled after it. -/
theorem voiceTurn_running {p : Program} {s : State} (hp : p.cfg = s.cfg)
    (hb : isBound (getVoice s s.srvVoice) = true) (hcv : (getVoice s s.srvVoice).cv = true) :
    voiceTurn p s = { sampleStep s with
      voices := s.voices.set s.srvVoice (nextVoice p (getVoice s s.srvVoice))
      queue  := retireUnless (isBound (nextVoice p (getVoice s s.srvVoice))) (getVoice s s.srvVoice).req s.queue } := by
  simp only [voiceTurn, nextNoise, sampleOf, sounds_of_cv hb hcv, if_true, startedVoice_of_cv p hcv, hp]
  rfl

theorem nextVoice_running {p : Program} {v : Voice} (hb : isBound v = true) (hcv : v.cv = true) :
    nextVoice p v = settledVoice p (advanceVoice v) := by
  rw [nextVoice, if_pos (sounds_of_cv hb hcv), startedVoice_of_cv p hcv]

/-- The end of an instruction right after its last sample (R152, R153). -/
theorem endInstr_sampleStep {s : State} (hk : s.srvVoice < s.voices.length) :
    endInstr (sampleStep s) = { sampleStep s with
      voices := s.voices.set s.srvVoice (finishVoice (advanceVoice (getVoice s s.srvVoice)))
      queue  := finishQueue (advanceVoice (getVoice s s.srvVoice)) s.queue } := by
  have hvoice : getVoice (sampleStep s) s.srvVoice = advanceVoice (getVoice s s.srvVoice) :=
    getVoice_sampleStep_iterate 1 hk
  have hset (v : Voice) : (sampleStep s).voices.set s.srvVoice v = s.voices.set s.srvVoice v := List.set_set _
  rw [endInstr_eq (by simpa using hk), sampleStep_srvVoice, hvoice, setVoice, hset]
  rfl

/-- The turn of a voice in an instruction: its sample, and where the instruction ends the next one or the retirement. -/
theorem voiceSample_running_eq {s : State} (hfit : ProgramFits s (getVoice s s.srvVoice))
    (hcv : (getVoice s s.srvVoice).cv = true) :
    voiceSample s = .next (voiceTurn (programOf s (getVoice s s.srvVoice)) s,
      isBound (nextVoice (programOf s (getVoice s s.srvVoice)) (getVoice s s.srvVoice))) := by
  set v := getVoice s s.srvVoice with hv
  obtain ⟨name, e, hr, he, hmem⟩ := hfit
  have hb : isBound v = true := by simp [isBound, hr]
  have hk : s.srvVoice < s.voices.length := lt_of_isBound (hv ▸ hb)
  have hvoice : getVoice (sampleStep s) s.srvVoice = advanceVoice v := getVoice_sampleStep_iterate 1 hk
  rw [voiceSample_running hcv, voiceTurn_running rfl (hv ▸ hb) hcv, ← hv, nextVoice_running hb hcv]
  simp only [hvoice]
  by_cases h0 : (advanceVoice v).sleft = 0#32
  · rw [if_pos h0, settledVoice, if_pos h0, endInstr_sampleStep hk, ← hv]
    by_cases hlast : (advanceVoice v).endIdx ≤ (advanceVoice v).cur + 1
    · have hunbound : isBound (finishVoice (advanceVoice v)) = false := by
        rw [isBound, finishVoice, if_pos hlast]
        rfl
      rw [if_pos hlast, hunbound, finishQueue, if_pos hlast]
      simp only [Bool.false_eq_true, if_false, hunbound, retireUnless_false]
      rfl
    · have hreq : (finishVoice (advanceVoice v)).req = v.req := by
        rw [finishVoice, if_neg hlast]
        rfl
      have hbound : isBound (finishVoice (advanceVoice v)) = true := by rw [isBound, hreq]; exact hb
      have hbound' (p : Program) : isBound (enteredVoice p (finishVoice (advanceVoice v))) = true := hbound
      rw [if_neg hlast, finishQueue, if_neg hlast]
      set s3 : State := { sampleStep s with
        voices := s.voices.set s.srvVoice (finishVoice (advanceVoice v)), queue := s.queue } with hs3
      have hread : getVoice s3 s3.srvVoice = finishVoice (advanceVoice v) :=
        (getVoice_of_voices_set hk rfl _).trans (if_pos rfl)
      have hprog : programOf s3 (finishVoice (advanceVoice v)) = programOf s v := programOf_eq rfl rfl rfl hreq
      have hfit3 : ProgramFits s3 (getVoice s3 s3.srvVoice) := hread.symm ▸ ⟨name, e, hreq.trans hr, he, hmem⟩
      have hset (w : Voice) : s3.voices.set s.srvVoice w = s.voices.set s.srvVoice w := List.set_set _
      rw [enterAtCursor_eq hfit3 (hread.symm ▸ Nat.not_le.1 hlast), andThen_next, hread, hprog]
      simp only [hbound, hbound', if_true, retireUnless_true, setVoice]
      rw [show s3.srvVoice = s.srvVoice from rfl, hset]
  · rw [if_neg h0, settledVoice, if_neg h0]
    have hnb : isBound (advanceVoice v) = true := hb
    simp only [hnb, retireUnless_true]
    rfl

/-- One turn of the served voice, whichever of R159's cases it is. -/
theorem voiceSample_eq {s : State} (hfit : ProgramFits s (getVoice s s.srvVoice)) :
    voiceSample s = .next (voiceTurn (programOf s (getVoice s s.srvVoice)) s,
      isBound (nextVoice (programOf s (getVoice s s.srvVoice)) (getVoice s s.srvVoice))) := by
  by_cases hcv : (getVoice s s.srvVoice).cv = true
  · exact voiceSample_running_eq hfit hcv
  rw [Bool.not_eq_true] at hcv
  have hfit' := hfit
  obtain ⟨name, e, hr, he, hmem⟩ := hfit'
  have hb : isBound (getVoice s s.srvVoice) = true := by simp [isBound, hr]
  have hk := lt_of_isBound hb
  rcases Nat.lt_or_ge (getVoice s s.srvVoice).cur (getVoice s s.srvVoice).endIdx with hcur | hlast
  · rw [voiceSample_fresh hcv hcur hk, enterAtCursor_eq hfit hcur, andThen_next]
    set v := getVoice s s.srvVoice with hv
    obtain ⟨hsounds, hsounds', hnext, hother⟩ := turn_of_entered (p := programOf s v) hb hcv hcur
    have hreq : (enteredVoice (programOf s v) v).req = v.req := rfl
    set w := enteredVoice (programOf s v) v with hw
    have hread : getVoice (setVoice s s.srvVoice w) s.srvVoice = w := getVoice_setVoice_self hk w
    have hprog : programOf (setVoice s s.srvVoice w) w = programOf s v := rfl
    have hturn : voiceTurn (programOf s v) (setVoice s s.srvVoice w) = voiceTurn (programOf s v) s := by
      simp only [voiceTurn, setVoice_srvVoice, hread, ← hv, hsounds, hsounds', hnext, hother, hreq, setVoice_noise,
        setVoice_voices, List.set_set]
      rfl
    rw [voiceSample_running_eq (by rw [setVoice_srvVoice, hread]; exact hfit) (by rw [setVoice_srvVoice, hread]; rfl),
      setVoice_srvVoice, hread, hprog, hturn, hnext]
  · have hsilent : sounds (getVoice s s.srvVoice) = false := by simp [sounds, hcv, exhausted, hlast]
    rw [voiceSample_empty hcv hlast]
    simp only [voiceTurn, nextVoice, nextNoise, sampleOf, hsilent, isBound, Option.isSome_none, Bool.false_eq_true,
      if_false, retireUnless_false, add_zero]
    rw [show (s.acc.modify s.srvPos fun x => x) = s.acc from List.modify_id _ _]
    rfl

end Sys2Proof.Machine
end


section
/-! SUPPORT. A leaf window in closed form: every bound voice runs by itself, the noise stream passes from one to the next,
and the samples they add are summed (R170 to R178). -/

namespace Sys2Proof.Machine

/-! ## One voice over the window -/

/-- ACC with the samples of `n` turns added from position `pos` on. -/
def addRun (p : Program) : Nat → Voice → Word → Nat → List Int → List Int
  | 0, _, _, _, acc => acc
  | n + 1, v, x, pos, acc =>
    addRun p n (nextVoice p v) (nextNoise p v x) (pos + 1) (acc.modify pos (· + sampleOf p v x))

theorem addRun_of_unbound (p : Program) {v : Voice} (h : isBound v = false) (n : Nat) (x : Word) (pos : Nat)
    (acc : List Int) : addRun p n v x pos acc = acc := by
  induction n generalizing pos acc with
  | zero => rfl
  | succ n ih =>
    have hid : (acc.modify pos fun y => y) = acc := List.modify_id _ _
    simp only [addRun, nextVoice_of_unbound p h, nextNoise_of_unbound p h, sampleOf_of_unbound p h, add_zero, hid, ih]

@[simp] theorem addRun_length (p : Program) (n : Nat) (v : Voice) (x : Word) (pos : Nat) (acc : List Int) :
    (addRun p n v x pos acc).length = acc.length := by
  induction n generalizing v x pos acc with
  | zero => rfl
  | succ n ih => simp [addRun, ih]

/-- Position `pos + j` gets what turn `j` adds. -/
theorem getElem?_addRun (p : Program) (n : Nat) (v : Voice) (x : Word) (pos : Nat) (acc : List Int) (j : Nat) :
    (addRun p n v x pos acc)[j]? =
      acc[j]?.map fun y => if pos ≤ j ∧ j < pos + n then y + sampleRun p (j - pos) v x else y := by
  induction n generalizing v x pos acc with
  | zero => simp [addRun, show ¬(pos ≤ j ∧ j < pos) by omega]
  | succ n ih =>
    rw [addRun, ih, List.getElem?_modify]
    by_cases hj : pos = j
    · subst hj
      cases acc[pos]? <;> simp [sampleRun]
    · by_cases hin : pos ≤ j ∧ j < pos + (n + 1)
      · obtain ⟨i, rfl⟩ : ∃ i, j = pos + 1 + i := ⟨j - pos - 1, by omega⟩
        have hi : pos + 1 ≤ pos + 1 + i ∧ pos + 1 + i < pos + 1 + n := by omega
        simp only [if_pos hin, if_pos hi, Nat.add_sub_cancel_left, show pos + 1 + i - pos = i + 1 by omega, sampleRun,
          if_neg hj, id_map']
      · have hout : ¬(pos + 1 ≤ j ∧ j < pos + 1 + n) := by omega
        simp only [if_neg hin, if_neg hout, if_neg hj, id_map']

theorem ProgramFits.bound {s : State} {v : Voice} (h : ProgramFits s v) : isBound v = true := by
  obtain ⟨name, e, hr, -⟩ := h
  simp [isBound, hr]

/-- A turn after which the voice is still bound: a sample has been made, and the program is where it was. -/
theorem voiceTurn_bound {s : State} (hfit : ProgramFits s (getVoice s s.srvVoice)) {p : Program}
    (hp : programOf s (getVoice s s.srvVoice) = p) (hb : isBound (nextVoice p (getVoice s s.srvVoice)) = true) :
    (voiceTurn p s).queue = s.queue ∧ (voiceTurn p s).srvPos = s.srvPos + 1 ∧
    ProgramFits (voiceTurn p s) (nextVoice p (getVoice s s.srvVoice)) ∧
    programOf (voiceTurn p s) (nextVoice p (getVoice s s.srvVoice)) = p := by
  obtain ⟨name, e, hr, he, hmem⟩ := hfit
  set v := getVoice s s.srvVoice with hv
  have hreq : (nextVoice p v).req = v.req := (bound_of_nextVoice_iterate (n := 1) hb).1
  have hqueue : (voiceTurn p s).queue = s.queue := by
    change retireUnless (isBound (nextVoice p v)) v.req s.queue = s.queue
    rw [hb, retireUnless_true]
  have hsounds : sounds v = true := by
    by_contra hsilent
    rw [Bool.not_eq_true] at hsilent
    simp [nextVoice, hsilent, isBound] at hb
  exact ⟨hqueue, if_pos hsounds,
    ⟨name, e, hreq.trans hr, by rw [hqueue]; exact he, by rw [nextVoice_endIdx]; exact hmem⟩,
    (programOf_eq (s := s) (t := voiceTurn p s) (v := v) rfl rfl hqueue hreq).trans hp⟩

/-- `n` turns of the served voice, up to the retirement if it comes. -/
theorem runVoiceBySamples_eq {s : State} (hfit : ProgramFits s (getVoice s s.srvVoice)) (n : Nat) :
    let v := getVoice s s.srvVoice
    let p := programOf s v
    ∃ pos, runVoiceBySamples n s = .next { s with
      voices := s.voices.set s.srvVoice ((nextVoice p)^[n] v)
      noise  := noiseRun p n v s.noise
      acc    := addRun p n v s.noise s.srvPos s.acc
      srvPos := pos
      queue  := retireUnless (isBound ((nextVoice p)^[n] v)) v.req s.queue } := by
  induction n generalizing s with
  | zero =>
    have hb := hfit.bound
    have hk := lt_of_isBound hb
    have hset : s.voices.set s.srvVoice (getVoice s s.srvVoice) = s.voices := by
      simp [getVoice, List.getD_eq_getElem?_getD, hk]
    exact ⟨s.srvPos, by simp [runVoiceBySamples, hb, noiseRun, addRun, hset]⟩
  | succ n ih =>
    have hk : s.srvVoice < s.voices.length := lt_of_isBound hfit.bound
    rw [runVoiceBySamples, voiceSample_eq hfit, andThen_next]
    set v := getVoice s s.srvVoice with hv
    set p := programOf s v with hp
    set s1 := voiceTurn p s with hs1
    have hread : getVoice s1 s1.srvVoice = nextVoice p v := (getVoice_of_voices_set hk rfl _).trans (if_pos rfl)
    simp only [Function.iterate_succ_apply, noiseRun, addRun]
    by_cases hb : isBound (nextVoice p v) = true
    · have hreq : (nextVoice p v).req = v.req := (bound_of_nextVoice_iterate (n := 1) hb).1
      obtain ⟨hqueue, hpos, hfit1, hprog⟩ := voiceTurn_bound hfit hp.symm hb
      rw [← hread] at hfit1
      obtain ⟨pos, hrun⟩ := ih hfit1
      refine ⟨pos, ?_⟩
      rw [if_pos hb, hrun, hread, hprog, hreq, hqueue, hpos]
      simp only [voiceTurn, ← hv, List.set_set]
      rfl
    · rw [Bool.not_eq_true] at hb
      refine ⟨s1.srvPos, ?_⟩
      rw [hb, if_neg Bool.false_ne_true, nextVoice_iterate_of_unbound p hb, noiseRun_of_unbound p hb, addRun_of_unbound p hb]
      simp only [hs1, voiceTurn, ← hv]
      rfl

/-! ## All voices over the window -/

/-- G.NOISE after the voices of the list, each `n` turns, one after the other (R172, R178). -/
def mixNoise (prog : Voice → Program) (n : Nat) : List Voice → Word → Word
  | [], x => x
  | v :: vs, x => mixNoise prog n vs (noiseRun (prog v) n v x)

/-- The sum of what the voices of the list add to sample `j` of a window of `n` (R173). -/
def mixSample (prog : Voice → Program) (n j : Nat) : List Voice → Word → Int
  | [], _ => 0
  | v :: vs, x => sampleRun (prog v) j v x + mixSample prog n j vs (noiseRun (prog v) n v x)

/-- Q with the requests of the voices that `after` leaves unbound Done (R153). -/
def retireAll (after : Voice → Voice) (vs : List Voice) (q : List Entry) : List Entry :=
  q.map fun e =>
    if ∃ v ∈ vs, v.req = some e.name ∧ (after v).req = none then { e with state := .done } else e

/-- A voice after a leaf window of `n` samples opened at `s`. -/
def voiceAfter (s : State) (n : Nat) (v : Voice) : Voice := (nextVoice (programOf s v))^[n] v

theorem voiceAfter_req (s : State) (n : Nat) (v : Voice) :
    (voiceAfter s n v).req = v.req ∨ (voiceAfter s n v).req = none := nextVoice_iterate_req _ _ _

theorem voiceAfter_of_unbound (s : State) (n : Nat) {v : Voice} (h : isBound v = false) : voiceAfter s n v = v :=
  nextVoice_iterate_of_unbound _ h n

theorem retireAll_nil (after : Voice → Voice) (q : List Entry) : retireAll after [] q = q := by simp [retireAll]

theorem retireAll_cons (after : Voice → Voice) (v : Voice) (vs : List Voice) (q : List Entry) :
    retireAll after (v :: vs) q =
      retireAll after vs (retireUnless (isBound (after v)) v.req q) := by
  by_cases hb : isBound (after v) = true
  · have hne : (after v).req ≠ none := by simpa [isBound, Option.isSome_iff_ne_none] using hb
    simp [retireAll, hb, hne]
  · rw [Bool.not_eq_true] at hb
    have hnone := unbound_iff.1 hb
    simp only [hb, retireUnless_false, setBoundState_eq_map, retireAll, List.map_map]
    refine List.map_congr_left fun e _ => ?_
    by_cases hr : v.req = some e.name
    · simp [hr, hnone]
    · simp [hr]

theorem retireAll_map {α : Type} (f : Entry → α) (hf : ∀ e st, f { e with state := st } = f e) (after : Voice → Voice)
    (vs : List Voice) (q : List Entry) : (retireAll after vs q).map f = q.map f := by
  simp only [retireAll, List.map_map]
  refine List.map_congr_left fun e _ => ?_
  simp only [Function.comp]
  split <;> simp [hf]

/-- RunVoice of a bound voice whose program fits, over a window that has been opened (R159). -/
theorem runVoice_eq {s : State} {k : Nat} (hc : s.cfg.Legal) (hfit : ProgramFits s (getVoice s k))
    (hn : 1 ≤ s.acc.length) :
    let v := getVoice s k
    ∃ pos, runVoice k s = .next { s with
      voices   := s.voices.set k (voiceAfter s s.acc.length v)
      noise    := noiseRun (programOf s v) s.acc.length v s.noise
      acc      := addRun (programOf s v) s.acc.length v s.noise 0 s.acc
      srvVoice := k
      srvPos   := pos
      queue    := retireUnless (isBound (voiceAfter s s.acc.length v)) v.req s.queue } := by
  rw [runVoice_eq_bySamples hc hfit.bound hn]
  exact runVoiceBySamples_eq (s := { s with srvVoice := k, srvPos := 0 }) hfit s.acc.length

/-- The programs of the voices are where they were after a turn of another one, or its retirement. -/
theorem programOf_congr {s t : State} (hcfg : t.cfg = s.cfg) (hmem : t.mem = s.mem) (r : Option Nat) (b : Bool)
    (hq : t.queue = retireUnless b r s.queue) : programOf t = programOf s := by
  funext v
  simp only [programOf, hcfg, hmem, hq]
  cases b <;> simp [programBase_setBoundState]

/-- The program of a voice fits whatever STATE entries have. -/
theorem ProgramFits.congr {s t : State} {v : Voice} (h : ProgramFits s v) (hcfg : t.cfg = s.cfg)
    (hq : ∀ n, (findEntry t.queue n).map Entry.base = (findEntry s.queue n).map Entry.base) : ProgramFits t v := by
  obtain ⟨name, e, hr, he, hmem⟩ := h
  have hbase := hq name
  rw [he] at hbase
  obtain ⟨d, hd, hde⟩ := Option.map_eq_some_iff.1 hbase
  exact ⟨name, d, hr, hd, by rw [hde, hcfg]; exact hmem⟩

/-- The voices of a list of indices, each over the whole window. -/
theorem runVoices_eq {ks : List Nat} (hks : ks.Nodup) {s : State} {n : Nat} (hc : s.cfg.Legal) (hn : 1 ≤ n)
    (hlen : s.acc.length = n)
    (hfit : ∀ k ∈ ks, isBound (getVoice s k) = true → ProgramFits s (getVoice s k)) :
    ∃ t, runVoices ks s = .next t ∧
      (∀ j, getVoice t j = if j ∈ ks then voiceAfter s n (getVoice s j) else getVoice s j) ∧
      t.queue = retireAll (voiceAfter s n) (ks.map (getVoice s)) s.queue ∧
      t.noise = mixNoise (programOf s) n (ks.map (getVoice s)) s.noise ∧
      ∀ j, j < n → t.acc[j]? =
        s.acc[j]?.map (· + mixSample (programOf s) n j (ks.map (getVoice s)) s.noise) := by
  induction ks generalizing s with
  | nil => exact ⟨s, rfl, by simp, by simp [retireAll_nil], rfl, by simp [mixSample]⟩
  | cons k ks ih =>
    obtain ⟨hkks, hks⟩ := List.nodup_cons.1 hks
    by_cases hb : isBound (getVoice s k) = true
    · have hk := lt_of_isBound hb
      obtain ⟨pos, hrun⟩ := runVoice_eq hc (hfit k List.mem_cons_self hb) (by omega)
      rw [hlen] at hrun
      set v := getVoice s k with hv
      set s1 : State := { s with
        voices   := s.voices.set k (voiceAfter s n v)
        noise    := noiseRun (programOf s v) n v s.noise
        acc      := addRun (programOf s v) n v s.noise 0 s.acc
        srvVoice := k
        srvPos   := pos
        queue    := retireUnless (isBound (voiceAfter s n v)) v.req s.queue } with hs1
      have hread (j : Nat) : getVoice s1 j = if j = k then voiceAfter s n v else getVoice s j :=
        getVoice_of_voices_set hk rfl j
      have hother {j : Nat} (hj : j ∈ ks) : getVoice s1 j = getVoice s j :=
        (hread j).trans (if_neg (ne_of_mem_of_not_mem hj hkks))
      have hprog : programOf s1 = programOf s := programOf_congr rfl rfl v.req (isBound (voiceAfter s n v)) rfl
      have hafter : voiceAfter s1 n = voiceAfter s n := by
        funext w
        simp only [voiceAfter, hprog]
      have hmap : ks.map (getVoice s1) = ks.map (getVoice s) := List.map_congr_left fun j hj => hother hj
      have hfit1 : ∀ j ∈ ks, isBound (getVoice s1 j) = true → ProgramFits s1 (getVoice s1 j) := by
        intro j hj hbj
        rw [hother hj] at hbj ⊢
        refine (hfit j (List.mem_cons_of_mem k hj) hbj).congr rfl fun m => ?_
        simp only [hs1]
        cases isBound (voiceAfter s n v)
        · exact findEntry_setBoundState_base _ _ _ _
        · rfl
      obtain ⟨t, ht, hvoices, hqueue, hnoise, hacc⟩ := ih hks (s := s1) hc (by simp [hs1, hlen]) hfit1
      refine ⟨t, ?_, fun j => ?_, ?_, ?_, fun j hj => ?_⟩
      · rw [runVoices, if_pos hb, hrun, andThen_next, ht]
      · rw [hvoices, hafter]
        by_cases hjk : j = k
        · subst hjk
          rw [if_neg hkks, hread, if_pos rfl, if_pos List.mem_cons_self]
        · rw [hread, if_neg hjk]
          simp [hjk]
      · rw [hqueue, hafter, hmap, List.map_cons, retireAll_cons]
      · rw [hnoise, hprog, hmap]
        rfl
      · rw [hacc j hj, hprog, hmap, List.map_cons, mixSample]
        simp only [hs1, getElem?_addRun, Option.map_map, Nat.zero_le, true_and, Nat.zero_add, if_pos hj, Nat.sub_zero, ← hv]
        congr 1
        funext y
        simp [add_assoc]
    · rw [Bool.not_eq_true] at hb
      obtain ⟨t, ht, hvoices, hqueue, hnoise, hacc⟩ :=
        ih hks hc hlen fun j hj => hfit j (List.mem_cons_of_mem k hj)
      have hafter := voiceAfter_of_unbound s n hb
      refine ⟨t, by simp [runVoices, hb, ht], fun j => ?_, ?_, ?_, fun j hj => ?_⟩
      · rw [hvoices]
        by_cases hjk : j = k
        · subst hjk
          simp [hkks, hafter]
        · simp [hjk]
      · rw [hqueue, List.map_cons, retireAll_cons, hafter, hb, unbound_iff.1 hb]
        rfl
      · rw [hnoise, List.map_cons, mixNoise, noiseRun_of_unbound _ hb]
      · rw [hacc j hj, List.map_cons, mixSample, noiseRun_of_unbound _ hb, sampleRun_of_unbound _ hb, zero_add]

/-! ## The leaf window -/

/-- The samples of a leaf window before saturation: ACC when it is mixed (R171 to R173). -/
def mixedSamples (s : State) (n : Nat) : List Int :=
  (List.range n).map fun j => mixSample (programOf s) n j s.voices s.noise

@[simp] theorem mixedSamples_length (s : State) (n : Nat) : (mixedSamples s n).length = n := by simp [mixedSamples]

/-- The state after a leaf window. -/
def leafState (dst n : Nat) (s : State) : State :=
  { s with
    voices   := s.voices.map (voiceAfter s n)
    queue    := retireAll (voiceAfter s n) s.voices s.queue
    noise    := mixNoise (programOf s) n s.voices s.noise
    mem      := storeSamples s.cfg dst (mixedSamples s n) s.mem
    curr     := s.curr + BitVec.ofNat 64 n
    acc      := []
    srvVoice := 0
    srvPos   := 0 }

theorem map_getVoice_range (s : State) : (List.range s.voices.length).map (getVoice s) = s.voices := by
  refine List.ext_getElem? fun j => ?_
  by_cases hj : j < s.voices.length
  · simp [hj, getVoice]
  · simp [hj]

/-- Leaf(DST, n) of a state whose bound voices all have their programs in memory (R170). -/
theorem leafWindow_eq {s : State} {n : Nat} (hc : s.cfg.Legal) (hlen : s.voices.length = s.cfg.maxVoices)
    (hfit : ∀ v ∈ s.voices, isBound v = true → ProgramFits s v) (hn : 1 ≤ n) (dst : Nat) :
    leafWindow dst n s = .next (leafState dst n s, activeNow s) := by
  obtain ⟨t, ht, hvoices, hqueue, hnoise, hacc⟩ := runVoices_eq (s := openWindow n s) (n := n)
    (List.nodup_range (n := s.cfg.maxVoices)) hc hn (by simp) fun k _ hb => hfit _ (getVoice_mem (lt_of_isBound hb)) hb
  obtain ⟨hcfg, hcurr, hfault, hactive, h0, h1, h2, hpins, hmem, hname, hpend, hbus, hacclen, hvlen, -⟩ :=
    runVoices_frame ht
  have hmapped : (List.range s.cfg.maxVoices).map (getVoice (openWindow n s)) = s.voices :=
    hlen ▸ map_getVoice_range s
  have hprog : programOf (openWindow n s) = programOf s := rfl
  have hafter : voiceAfter (openWindow n s) n = voiceAfter s n := rfl
  rw [hmapped, hafter] at hqueue
  rw [hmapped, hprog] at hnoise hacc
  have htvoices : t.voices = s.voices.map (voiceAfter s n) := by
    refine List.ext_getElem? fun j => ?_
    have hj := hvoices j
    by_cases hlt : j < s.voices.length
    · have hlt' : j < t.voices.length := by rw [hvlen]; exact hlt
      simp only [List.mem_range, ← hlen, hlt, if_true, getVoice, List.getD_eq_getElem?_getD] at hj
      simpa [hlt, hlt', getVoice, hafter] using hj
    · rw [List.getElem?_eq_none (by rw [hvlen]; exact Nat.le_of_not_lt hlt), List.getElem?_eq_none (by simpa using hlt)]
  have htacc : t.acc = mixedSamples s n := by
    refine List.ext_getElem? fun j => ?_
    by_cases hj : j < n
    · rw [hacc j hj]
      simp [mixedSamples, hj]
    · rw [List.getElem?_eq_none (by simpa [hacclen] using hj), List.getElem?_eq_none (by simpa using hj)]
  rw [leafWindow, ht, andThen_next]
  simp only [closeWindow, leafState, htvoices, hqueue, hnoise, htacc, hcfg, hcurr, hfault, hactive, h0, h1, h2, hpins, hmem,
    hname, hpend, hbus, mixedSamples_length]
  rfl

end Sys2Proof.Machine
end


section
/-! SUPPORT. The bounds of a voice and the registers of the instruction at its cursor, kept by its turns (R36, R155 to
R157). -/

namespace Sys2Proof.Machine

/-! ## One sample of a ramp -/

/-- Between two ends that are `n` steps apart one step stays between them. -/
theorem ramp_step_within {a d lo hi : Int} {n : Nat} (hn : 1 ≤ n) (ha : lo ≤ a ∧ a ≤ hi)
    (hend : lo ≤ a + (n : Int) * d ∧ a + (n : Int) * d ≤ hi) : lo ≤ a + d ∧ a + d ≤ hi := by
  have hn' : (1 : Int) ≤ n := by exact_mod_cast hn
  rcases Int.le_total 0 d with hd | hd
  · have : d ≤ (n : Int) * d := by nlinarith
    omega
  · have : (n : Int) * d ≤ d := by nlinarith
    omega

/-- A word added to a number, as an integer, where the sum is a word (R149). -/
theorem toNat_add_toInt {x y : Word} (h : 0 ≤ (x.toNat : Int) + y.toInt) (h' : (x.toNat : Int) + y.toInt < 2 ^ 32) :
    ((x + y).toNat : Int) = x.toNat + y.toInt := by
  rw [BitVec.toNat_add]
  rw [BitVec.toInt_eq_toNat_cond] at h h' ⊢
  have := y.isLt
  split at h <;> omega

/-- Two signed words added, where the sum is one (R150). -/
theorem toInt_add_toInt {x y : Word} (h : -2 ^ 31 ≤ x.toInt + y.toInt) (h' : x.toInt + y.toInt < 2 ^ 31) :
    (x + y).toInt = x.toInt + y.toInt := by
  rw [BitVec.toInt_add, Int.bmod_eq_of_le] <;> omega

/-- What a sample does to the registers of a voice in its bounds, as numbers (R148 to R151). -/
theorem advanceVoice_registers {c : Config} (hc : c.Legal) {v : Voice} (h : RampOk c v) :
    (advanceVoice v).vol.toInt = v.vol.toInt + v.vstep.toInt ∧
    ((advanceVoice v).tstep.toNat : Int) = v.tstep.toNat + v.tdelta.toInt ∧
    ((advanceVoice v).sleft.toNat : Int) = v.sleft.toNat - 1 := by
  obtain ⟨hs, -, hvol, hvol', hvend, hvend', htone, htone', htend, htend'⟩ := h
  have hrange := tonestep_range hc
  have hv := ramp_step_within hs ⟨hvol, hvol'⟩ ⟨hvend, hvend'⟩
  have ht := ramp_step_within hs ⟨Int.ofNat_le.2 htone, Int.ofNat_le.2 htone'⟩ ⟨htend, htend'⟩
  refine ⟨toInt_add_toInt (by omega) (by omega), toNat_add_toInt (by omega) (by omega), ?_⟩
  rw [advanceVoice_sleft, BitVec.toNat_sub_of_le (by bv_omega)]
  have : (1#32).toNat = 1 := rfl
  omega

/-- A sample that does not end its instruction keeps the bounds (R157). -/
theorem RampOk.advance {c : Config} (hc : c.Legal) {v : Voice} (h : RampOk c v) (h0 : (advanceVoice v).sleft ≠ 0#32) :
    RampOk c (advanceVoice v) := by
  obtain ⟨hvol, htone, hsleft⟩ := advanceVoice_registers hc h
  obtain ⟨hs, hs', hv0, hv1, hvend, hvend', ht0, ht1, htend, htend'⟩ := h
  have hv := ramp_step_within hs ⟨hv0, hv1⟩ ⟨hvend, hvend'⟩
  have ht := ramp_step_within hs ⟨Int.ofNat_le.2 ht0, Int.ofNat_le.2 ht1⟩ ⟨htend, htend'⟩
  have hpos : 1 ≤ (advanceVoice v).sleft.toNat := by bv_omega
  have hend (a d : Int) : a + d + ((v.sleft.toNat : Int) - 1) * d = a + (v.sleft.toNat : Int) * d := by ring
  refine ⟨hpos, by omega, ?_⟩
  rw [advanceVoice_vstep, advanceVoice_tdelta, hvol, htone, hsleft, hend, hend]
  exact ⟨hv.1, hv.2, hvend, hvend', by omega, by omega, htend, htend'⟩

/-- The registers of a voice that has entered the instruction at its cursor, as numbers (R140). -/
theorem enteredVoice_registers {p : Program} (hc : p.cfg.Legal) (v : Voice) :
    let w := enteredVoice p v
    let o := clampOps (opsAt p.mem (p.base + 12 * v.cur))
    w.sleft.toNat = sampleCount p.cfg o.d ∧ w.vol.toInt = (o.sv : Int) * 2 ^ 16 ∧
    w.tstep.toNat = tonestep p.cfg o.f ∧ w.vstep.toInt = volumeStep p.cfg o ∧
    w.tdelta.toInt = toneDelta p.cfg o := by
  set op := opsAt p.mem (p.base + 12 * v.cur) with hop
  have hsv : (clampOps op).sv ≤ 1023 := clampVol_le op.startVolume
  have htone := tonestep_clamped p.cfg op.frequency
  have hrange := tonestep_range hc
  refine ⟨enterVoice_sleft_toNat hc _ op v, ?_, ?_, toInt_volumeStep p.cfg op, toInt_toneDelta hc op⟩
  · have hvol := toInt_volume_ramp (a := (clampOps op).sv) (m := 0) (d := 0) (by omega) (by omega)
    rwa [BitVec.zero_mul, BitVec.add_zero, mul_zero, add_zero] at hvol
  · change (BitVec.ofNat 32 (tonestep p.cfg (clampFreq op.frequency))).toNat = _
    rw [BitVec.toNat_ofNat, Nat.mod_eq_of_lt (by omega)]
    rfl

/-- An instruction enters with its registers in their bounds (R157). -/
theorem RampOk.entered {p : Program} (hc : p.cfg.Legal) (v : Voice) : RampOk p.cfg (enteredVoice p v) := by
  obtain ⟨hsleft, hvol, htstep, hvstep, htdelta⟩ := enteredVoice_registers hc v
  set op := opsAt p.mem (p.base + 12 * v.cur) with hop
  have hcount := sampleCount_le hc op
  have hcount' := sampleCount_pos p.cfg (clampOps op).d
  have hsv : (clampOps op).sv ≤ 1023 := clampVol_le op.startVolume
  have hvend := volume_ramp_range p.cfg op (Nat.le_refl _)
  have htend := tone_ramp_range p.cfg op (Nat.le_refl _)
  have htone := tonestep_clamped p.cfg op.frequency
  rw [RampOk, hsleft, hvol, htstep, hvstep, htdelta]
  exact ⟨hcount', hcount, by omega, by omega, hvend.1, hvend.2, htone.1, htone.2, htend.1, htend.2⟩

/-! ## What a turn does to the voice, case by case -/

theorem startedVoice_cur (p : Program) (v : Voice) : (startedVoice p v).cur = v.cur := by
  simp only [startedVoice]
  split <;> rfl

theorem startedVoice_endIdx (p : Program) (v : Voice) : (startedVoice p v).endIdx = v.endIdx := by
  simp only [startedVoice]
  split <;> rfl

/-- A voice still bound after a turn has made a sample, and is inside an instruction or has entered the next one. -/
theorem nextVoice_bound {p : Program} {v : Voice} (h : isBound (nextVoice p v) = true) :
    sounds v = true ∧
    (((advanceVoice (startedVoice p v)).sleft ≠ 0#32 ∧ nextVoice p v = advanceVoice (startedVoice p v)) ∨
      (v.cur + 1 < v.endIdx ∧
        nextVoice p v = enteredVoice p { advanceVoice (startedVoice p v) with cur := v.cur + 1 })) := by
  have hsounds : sounds v = true := by
    by_contra hsilent
    rw [Bool.not_eq_true] at hsilent
    simp [nextVoice, hsilent, isBound] at h
  refine ⟨hsounds, ?_⟩
  rw [nextVoice, if_pos hsounds] at h ⊢
  set w := advanceVoice (startedVoice p v) with hw
  have hcur : w.cur = v.cur := startedVoice_cur p v
  have hend : w.endIdx = v.endIdx := startedVoice_endIdx p v
  by_cases h0 : w.sleft = 0#32
  · rw [settledVoice, if_pos h0] at h ⊢
    by_cases hb : isBound (finishVoice w) = true
    · rw [if_pos hb]
      have hmore : ¬w.endIdx ≤ w.cur + 1 := fun hlast => by simp [finishVoice, isBound, hlast] at hb
      refine .inr ⟨by omega, ?_⟩
      rw [finishVoice, if_neg hmore, hcur]
    · rw [if_neg hb] at h
      exact absurd h hb
  · rw [settledVoice, if_neg h0]
    exact .inl ⟨h0, rfl⟩

/-- What entering an instruction establishes and samples inside it keep holds of a running voice from turn to turn. -/
theorem nextVoice_keeps {p : Program} {Q : Voice → Prop} (henter : ∀ w, w.cur < w.endIdx → Q (enteredVoice p w))
    (hadvance : ∀ w, Q w → (advanceVoice w).sleft ≠ 0#32 → Q (advanceVoice w)) {v : Voice} (hv : v.cv = true → Q v)
    (h : isBound (nextVoice p v) = true) : Q (nextVoice p v) := by
  obtain ⟨hsounds, ⟨h0, heq⟩ | ⟨hcur, heq⟩⟩ := nextVoice_bound h
  · rw [heq]
    refine hadvance _ ?_ h0
    by_cases hcv : v.cv = true
    · rw [startedVoice_of_cv p hcv]
      exact hv hcv
    · have hcur : v.cur < v.endIdx := by
        simpa [sounds, hcv, exhausted] using (Bool.and_eq_true_iff.1 hsounds).2
      rw [startedVoice, if_neg hcv]
      exact henter v hcur
  · rw [heq]
    refine henter { advanceVoice (startedVoice p v) with cur := v.cur + 1 } ?_
    simpa only [advanceVoice_endIdx, startedVoice_endIdx] using hcur

theorem nextVoice_start (p : Program) (v : Voice) : (nextVoice p v).start = v.start := by
  have hstarted : (startedVoice p v).start = v.start := by
    simp only [startedVoice]
    split <;> rfl
  simp only [nextVoice, settledVoice]
  split
  · split
    · split <;> exact hstarted
    · exact hstarted
  · rfl

theorem nextVoice_iterate_start (p : Program) (n : Nat) (v : Voice) :
    ((nextVoice p)^[n] v).start = v.start := by
  induction n with
  | zero => rfl
  | succ n ih => rw [Function.iterate_succ_apply', nextVoice_start, ih]

theorem nextVoice_iterate_endIdx (p : Program) (n : Nat) (v : Voice) :
    ((nextVoice p)^[n] v).endIdx = v.endIdx := by
  induction n with
  | zero => rfl
  | succ n ih => rw [Function.iterate_succ_apply', nextVoice_endIdx, ih]

theorem bound_of_nextVoice {p : Program} {v : Voice} (h : isBound (nextVoice p v) = true) :
    (nextVoice p v).req = v.req ∧ isBound v = true := bound_of_nextVoice_iterate (n := 1) h

/-! ## The bounds (R36, R157, R197) -/

/-- The cursor and the ramps of a voice are in their bounds (R36(c), R157, R197(b)). -/
def TurnOk (c : Config) (v : Voice) : Prop :=
  v.cur ≤ v.endIdx ∧ (v.cv = true → v.cur < v.endIdx ∧ RampOk c v) ∧ (v.cv = false → v.cur = 0)

theorem TurnOk.next {p : Program} (hc : p.cfg.Legal) {v : Voice} (h : TurnOk p.cfg v)
    (hb : isBound (nextVoice p v) = true) : TurnOk p.cfg (nextVoice p v) := by
  obtain ⟨-, hrunning, -⟩ := h
  have hkept : (nextVoice p v).cv = true ∧ (nextVoice p v).cur < (nextVoice p v).endIdx ∧
      RampOk p.cfg (nextVoice p v) := by
    refine nextVoice_keeps (Q := fun w => w.cv = true ∧ w.cur < w.endIdx ∧ RampOk p.cfg w) (fun w hw => ?_)
      (fun w hw h0 => ?_) (fun hcv => ⟨hcv, hrunning hcv⟩) hb
    · exact ⟨rfl, hw, RampOk.entered hc w⟩
    · obtain ⟨hcv, hcur, hramp⟩ := hw
      exact ⟨hcv, hcur, hramp.advance hc h0⟩
  obtain ⟨hcv, hcur, hramp⟩ := hkept
  exact ⟨Nat.le_of_lt hcur, fun _ => ⟨hcur, hramp⟩, fun hfresh => by simp [hcv] at hfresh⟩

theorem TurnOk.iterate {p : Program} (hc : p.cfg.Legal) {n : Nat} {v : Voice} (h : TurnOk p.cfg v)
    (hb : isBound ((nextVoice p)^[n] v) = true) : TurnOk p.cfg ((nextVoice p)^[n] v) := by
  induction n with
  | zero => exact h
  | succ n ih =>
    rw [Function.iterate_succ_apply'] at hb ⊢
    exact (ih (bound_of_nextVoice hb).2).next hc hb

/-! ## The registers of the instruction at the cursor (R34, R35, R155, R156) -/

/-- A voice that has just entered has made no sample (R140). -/
theorem CarriedOk.entered {p : Program} (hc : p.cfg.Legal) {e : Entry} (he : e.base = p.base) (v : Voice) :
    CarriedOk p.cfg p.mem e (enteredVoice p v) := by
  obtain ⟨hsleft, hvol, htstep, hvstep, htdelta⟩ := enteredVoice_registers hc v
  have hcur : (enteredVoice p v).cur = v.cur := rfl
  have hwave : (enteredVoice p v).wave = memRead p.mem (p.base + 12 * v.cur) := rfl
  simp only [CarriedOk, hcur, hwave, he, hsleft, hvol, htstep, hvstep, htdelta, sub_self, zero_mul, add_zero, and_self,
    sampleCount_pos, le_refl]

/-- A sample counts one more made, and the ramps go on by one step. -/
theorem CarriedOk.advance {c : Config} {m : Memory} (hc : c.Legal) {e : Entry} {v : Voice} (h : CarriedOk c m e v)
    (hramp : RampOk c v) (h0 : (advanceVoice v).sleft ≠ 0#32) : CarriedOk c m e (advanceVoice v) := by
  obtain ⟨hvol, htone, hsleft⟩ := advanceVoice_registers hc hramp
  obtain ⟨hpos, hmade, hwave, hvstep, htdelta, hv, ht⟩ := h
  have hcur : (advanceVoice v).cur = v.cur := rfl
  simp only [CarriedOk, hcur, hsleft, hvol, htone, advanceVoice_vstep, advanceVoice_tdelta, hvstep, htdelta, hv, ht]
  refine ⟨by bv_omega, by omega, hwave, trivial, trivial, by ring, by ring⟩

theorem CarriedOk.next {p : Program} (hc : p.cfg.Legal) {e : Entry} (he : e.base = p.base) {v : Voice}
    (hv : TurnOk p.cfg v) (h : v.cv = true → CarriedOk p.cfg p.mem e v) (hb : isBound (nextVoice p v) = true) :
    CarriedOk p.cfg p.mem e (nextVoice p v) := by
  obtain ⟨-, hrunning, -⟩ := hv
  refine (nextVoice_keeps (Q := fun w => RampOk p.cfg w ∧ CarriedOk p.cfg p.mem e w) (fun w _ => ?_)
    (fun w hw h0 => ?_) (fun hcv => ⟨(hrunning hcv).2, h hcv⟩) hb).2
  · exact ⟨RampOk.entered hc w, CarriedOk.entered hc he w⟩
  · exact ⟨hw.1.advance hc h0, hw.2.advance hc hw.1 h0⟩

theorem CarriedOk.iterate {p : Program} (hc : p.cfg.Legal) {e : Entry} (he : e.base = p.base) {n : Nat} {v : Voice}
    (hv : TurnOk p.cfg v) (h : v.cv = true → CarriedOk p.cfg p.mem e v)
    (hb : isBound ((nextVoice p)^[n] v) = true) (hcv : ((nextVoice p)^[n] v).cv = true) :
    CarriedOk p.cfg p.mem e ((nextVoice p)^[n] v) := by
  induction n with
  | zero => exact h hcv
  | succ n ih =>
    rw [Function.iterate_succ_apply'] at hb ⊢
    have hbefore := (bound_of_nextVoice hb).2
    exact CarriedOk.next hc he (hv.iterate hc hbefore) (ih hbefore) hb

/-- The instruction at the cursor is the same in a memory that agrees over the buffer (R66). -/
theorem CarriedOk.congr_mem {c : Config} {m m' : Memory} {e : Entry} {v : Voice} (h : CarriedOk c m e v)
    (hcur : 12 * v.cur + 12 ≤ e.len)
    (hm : ∀ a, e.base ≤ a → a < e.base + e.len → memRead m' a = memRead m a) : CarriedOk c m' e v := by
  have hread (i : Nat) (hi : i < 12) : memRead m' (e.base + 12 * v.cur + i) = memRead m (e.base + 12 * v.cur + i) :=
    hm _ (by omega) (by omega)
  have hops : opsAt m' (e.base + 12 * v.cur) = opsAt m (e.base + 12 * v.cur) := by
    simp only [opsAt, hread, Nat.reduceLT]
  have hwave := hread 0 (by decide)
  rw [Nat.add_zero] at hwave
  rw [CarriedOk, hops, hwave]
  exact h

end Sys2Proof.Machine
end


section
/-! SUPPORT. The invariant of memory, queue and voices, kept by a promotion and by a leaf window (R22, R36, R40, R157,
R197). -/

namespace Sys2Proof.Machine

/-! ## Names and bindings, by index -/

/-- No two voices name one entry, by the voices' indices (R36(b)). -/
theorem reqs_nodup_iff {vs : List Voice} : (vs.filterMap Voice.req).Nodup ↔
    ∀ (j k : Nat) (v w : Voice) (m : Nat), vs[j]? = some v → vs[k]? = some w → v.req = some m → w.req = some m →
      j = k := by
  rw [List.Nodup, List.pairwise_filterMap, List.pairwise_iff_getElem]
  constructor
  · intro h j k v w m hj hk hv hw
    obtain ⟨hjlt, rfl⟩ := List.getElem?_eq_some_iff.1 hj
    obtain ⟨hklt, rfl⟩ := List.getElem?_eq_some_iff.1 hk
    rcases Nat.lt_trichotomy j k with hlt | heq | hlt
    · exact absurd rfl (h j k hjlt hklt hlt m hv m hw)
    · exact heq
    · exact absurd rfl (h k j hklt hjlt hlt m hw m hv)
  · rintro h j k hj hk hlt m hv m' hw rfl
    have := h j k _ _ m (List.getElem?_eq_getElem hj) (List.getElem?_eq_getElem hk) hv hw
    omega

/-- An entry of Q is known by its name. -/
theorem entry_eq_of_name {s : State} (h : QueueInv s) {d e : Entry} (hd : d ∈ s.queue) (he : e ∈ s.queue)
    (hn : d.name = e.name) : d = e := List.inj_on_of_nodup_map h.1 hd he hn

/-- What a voice names is in Q (R36(a)). -/
theorem entry_of_req {s : State} (h : VoicesInv s) {v : Voice} (hv : v ∈ s.voices) {m : Nat} (hr : v.req = some m) :
    ∃ e ∈ s.queue, e.name = m := by
  obtain ⟨-, hreq, -⟩ := h
  rcases hreq v hv with hnone | hin
  · simp [hr] at hnone
  · obtain ⟨e, he, hname⟩ := List.mem_map.1 hin
    exact ⟨e, he, Option.some.inj (hname.trans hr)⟩

theorem CarriedOk.congr_base {c : Config} {m : Memory} {d e : Entry} {v : Voice} (h : CarriedOk c m e v)
    (hb : d.base = e.base) : CarriedOk c m d v := by
  rw [CarriedOk, hb]
  exact h

/-- Entries restated keep the invariant of Q, where none left Waiting is overdue (R38, R197(a)). -/
theorem QueueInv.of_restated {s t : State} (h : QueueInv s) (hcfg : t.cfg = s.cfg) (hname : t.nextName = s.nextName)
    {g : Entry → Entry} (hq : t.queue = s.queue.map g) (hg : ∀ d, (g d).request = d.request)
    (hw : ∀ d ∈ s.queue, (g d).state = .waiting → t.curr.toNat ≤ d.start.toNat) : QueueInv t := by
  have hfields (d : Entry) : (g d).name = d.name ∧ (g d).base = d.base ∧ (g d).len = d.len ∧ (g d).start = d.start := by
    simpa [Entry.request] using hg d
  obtain ⟨hnodup, hentry⟩ := h
  have hnames : t.queue.map Entry.name = s.queue.map Entry.name := by
    rw [hq, List.map_map]
    exact List.map_congr_left fun d _ => (hfields d).1
  refine ⟨hnames ▸ hnodup, fun d' hd' => ?_⟩
  obtain ⟨d, hd, rfl⟩ := List.mem_map.1 (hq ▸ hd')
  obtain ⟨hn, hb, hl, hs⟩ := hfields d
  obtain ⟨hold, hok, -⟩ := hentry d hd
  rw [hn, hs, EntryOk, hb, hl, hcfg, hname]
  exact ⟨hold, hok, hw d hd⟩

/-! ## A promotion (R189 to R192) -/

/-- An entry of Q after the promotion of `e` to the voice `v`. -/
def promotedEntry (e : Entry) (v : Voice) (d : Entry) : Entry :=
  if d.name = e.name then { d with state := .playing }
  else if v.req = some d.name then { d with state := .done }
  else d

theorem promotedEntry_request (e : Entry) (v : Voice) (d : Entry) : (promotedEntry e v d).request = d.request := by
  simp only [promotedEntry]
  split
  · rfl
  · split <;> rfl

theorem promote_queue_eq_map (e : Entry) (s : State) :
    (promote e s).queue = s.queue.map (promotedEntry e (getVoice s (chooseVoice s.voices))) := by
  rw [promote_queue, setBoundState_eq_map, setEntryState, List.map_map]
  refine List.map_congr_left fun d _ => ?_
  simp only [Function.comp, promotedEntry]
  split <;> rfl

/-- An entry that is Waiting after a promotion is another one, and was. -/
theorem promotedEntry_waiting {e : Entry} {v : Voice} {d : Entry} (h : (promotedEntry e v d).state = .waiting) :
    promotedEntry e v d = d ∧ d.state = .waiting := by
  by_cases hname : d.name = e.name
  · simp [promotedEntry, hname] at h
  · by_cases hbound : v.req = some d.name
    · simp [promotedEntry, hname, hbound] at h
    · have hsame : promotedEntry e v d = d := by rw [promotedEntry, if_neg hname, if_neg hbound]
      exact ⟨hsame, hsame ▸ h⟩

section Promote

variable {s : State} {e : Entry}

/-- No voice is bound to a Waiting entry (R36). -/
theorem req_ne_of_waiting (h : VoicesInv s) (he : e ∈ s.queue) (hw : e.state = .waiting) {v : Voice}
    (hv : v ∈ s.voices) : v.req ≠ some e.name := fun hr => by
  obtain ⟨-, -, hbound, -⟩ := h
  have := (hbound v hv e he hr).1
  simp [hw] at this

theorem promote_voices_getElem? (hk : chooseVoice s.voices < s.voices.length) (j : Nat) :
    (promote e s).voices[j]? =
      if j = chooseVoice s.voices then some (bindVoice e s.curr (getVoice s (chooseVoice s.voices)))
      else s.voices[j]? := by
  rw [promote_voices, List.getElem?_set]
  by_cases hj : chooseVoice s.voices = j
  · simp [hj.symm, hk]
  · simp [hj, Ne.symm hj]

theorem VoicesInv.promote (hc : s.cfg.Legal) (hq : QueueInv s) (h : VoicesInv s) (he : e ∈ s.queue)
    (hw : e.state = .waiting) (hdue : e.start.toNat ≤ s.curr.toNat) : VoicesInv (promote e s) := by
  have hfree {v : Voice} (hv : v ∈ s.voices) : v.req ≠ some e.name := req_ne_of_waiting h he hw hv
  obtain ⟨hlen, hreq, hbound, hnodup, hplay⟩ := h
  rw [reqs_nodup_iff] at hnodup
  have hvs : s.voices ≠ [] := by
    intro hnil
    rw [hnil] at hlen
    have := hc.2.2.2.2.1
    simp at hlen
    omega
  have hk := chooseVoice_lt hvs
  have hvoice := promote_voices_getElem? (e := e) hk
  set k := chooseVoice s.voices with hkdef
  set v := getVoice s k with hv
  set b := bindVoice e s.curr v with hb
  have hvk : s.voices[k]? = some v := by simp [hv, getVoice, List.getD_eq_getElem?_getD, hk]
  have hqueue : (Machine.promote e s).queue = s.queue.map (promotedEntry e v) := promote_queue_eq_map e s
  have hbreq : b.req = some e.name := rfl
  have hfresh : b.cv = false := rfl
  have hstart : e.start = s.curr := BitVec.eq_of_toNat_eq (Nat.le_antisymm hdue ((hq.2 e he).2.2 hw))
  have hname (d : Entry) : (promotedEntry e v d).name = d.name := congrArg Prod.fst (promotedEntry_request e v d)
  refine ⟨by simpa using hlen, fun w hmem => ?_, fun w hmem d' hd' hr => ?_, ?_, fun d' hd' hplaying => ?_⟩
  · have hnames : (Machine.promote e s).queue.map (fun e => some e.name) = s.queue.map (fun e => some e.name) :=
      promote_map _ (fun _ _ => rfl) e s
    rw [hnames]
    rcases List.mem_or_eq_of_mem_set (promote_voices e s ▸ hmem) with hold | rfl
    · exact hreq w hold
    · exact .inr (List.mem_map.2 ⟨e, he, rfl⟩)
  · obtain ⟨d, hd, rfl⟩ := List.mem_map.1 (hqueue ▸ hd')
    rw [hname] at hr
    obtain ⟨j, hj⟩ := List.mem_iff_getElem?.1 hmem
    rw [hvoice] at hj
    split at hj
    · obtain rfl := Option.some.inj hj
      have hde : d.name = e.name := (Option.some.inj (hbreq.symm.trans hr)).symm
      obtain rfl := entry_eq_of_name hq hd he hde
      rw [promotedEntry, if_pos rfl]
      exact ⟨rfl, hstart.symm, Nat.le_refl _, rfl, Nat.zero_le _, fun hcv => by simp [hfresh] at hcv, fun _ => rfl⟩
    · rename_i hjk
      have hold : w ∈ s.voices := List.mem_of_getElem? hj
      have hne : d.name ≠ e.name := fun hde => hfree hold (hde ▸ hr)
      have hother : v.req ≠ some d.name := fun hvr => hjk (hnodup j k w v d.name hj hvk hr hvr)
      rw [promotedEntry, if_neg hne, if_neg hother]
      exact hbound w hold d hd hr
  · rw [reqs_nodup_iff]
    intro i j x y m hi hj hx hy
    rw [hvoice] at hi hj
    split at hi <;> split at hj
    · rename_i h1 h2
      exact h1.trans h2.symm
    · obtain rfl := Option.some.inj hi
      exact absurd (hy.trans (hx.symm.trans hbreq)) (hfree (List.mem_of_getElem? hj))
    · obtain rfl := Option.some.inj hj
      exact absurd (hx.trans (hy.symm.trans hbreq)) (hfree (List.mem_of_getElem? hi))
    · exact hnodup i j x y m hi hj hx hy
  · obtain ⟨d, hd, rfl⟩ := List.mem_map.1 (hqueue ▸ hd')
    rw [hname]
    by_cases hde : d.name = e.name
    · rw [hde]
      exact List.mem_map.2 ⟨b, by rw [promote_voices]; exact List.mem_set hk _, rfl⟩
    · rw [promotedEntry, if_neg hde] at hplaying
      split at hplaying
      · cases hplaying
      · rename_i hother
        obtain ⟨w, hmem, hr⟩ := List.mem_map.1 (hplay d hd hplaying)
        obtain ⟨j, hj⟩ := List.mem_iff_getElem?.1 hmem
        have hjk : j ≠ k := by
          rintro rfl
          exact hother ((Option.some.inj (hvk.symm.trans hj)).symm ▸ hr)
        exact List.mem_map.2 ⟨w, List.mem_iff_getElem?.2 ⟨j, by rw [hvoice, if_neg hjk, hj]⟩, hr⟩

theorem Inv.promote (h : Inv s) (he : e ∈ s.queue) (hw : isWaiting e = true) (hdue : e.start.toNat ≤ s.curr.toNat) :
    Inv (promote e s) := by
  have hw : e.state = .waiting := by simpa [isWaiting] using hw
  obtain ⟨hc, hmem, hq, hv, hidle, hnoise⟩ := h
  refine ⟨hc, hmem, ?_, hv.promote hc hq he hw hdue, hidle, hnoise⟩
  refine hq.of_restated rfl rfl (promote_queue_eq_map e s) (promotedEntry_request e _) fun d hd hwait => ?_
  exact (hq.2 d hd).2.2 (promotedEntry_waiting hwait).2

/-- The bound voice is fresh; the others have the programs and the registers they had (R192). -/
theorem Carried.promote (h : Carried s) : Carried (promote e s) := by
  intro w hmem d' hd' hr hcv
  rw [promote_queue_eq_map] at hd'
  obtain ⟨d, hd, rfl⟩ := List.mem_map.1 hd'
  obtain ⟨hn, hb, -⟩ : (promotedEntry e (getVoice s (chooseVoice s.voices)) d).name = d.name ∧ _ = d.base ∧ _ := by
    simpa [Entry.request] using promotedEntry_request e (getVoice s (chooseVoice s.voices)) d
  rcases List.mem_or_eq_of_mem_set (promote_voices e s ▸ hmem) with hold | rfl
  · exact (h w hold d hd (hn ▸ hr) hcv).congr_base hb
  · cases hcv

end Promote

/-- A scheduling step keeps the invariant and the voices' registers (R194). -/
theorem Inv.schedule {s : State} (h : Inv s) : Inv (schedule s).1 :=
  schedule_keeps (P := Inv) (fun _ _ he hw hdue hs => hs.promote he hw hdue) h

theorem Carried.schedule {s : State} (h : Carried s) : Carried (Machine.schedule s).1 :=
  schedule_keeps (P := Carried) (fun _ _ _ _ _ ht => ht.promote) h

/-! ## A leaf window (R170 to R177) -/

/-- A window RENDER may write: in the address space, on no pinned byte, and with a clock that can count it (R69,
R251). -/
structure WindowFits (dst n : Nat) (s : State) : Prop where
  room    : dst + 2 * n ≤ s.cfg.memSize
  unpinned : ∀ e ∈ s.queue, ∀ a, e.base ≤ a → a < e.base + e.len → a < dst ∨ dst + 2 * n ≤ a
  clock   : s.curr.toNat + n < 2 ^ 64

/-- Nothing that waits comes due before the window's last sample (R188). -/
def NothingDueWithin (n : Nat) (s : State) : Prop :=
  ∀ e ∈ s.queue, e.state = .waiting → s.curr.toNat + n ≤ e.start.toNat

/-- An entry of Q after its voices have played: Done where its voice has retired (R153). -/
def playedEntry (s : State) (n : Nat) (e : Entry) : Entry :=
  if ∃ v ∈ s.voices, v.req = some e.name ∧ (voiceAfter s n v).req = none then { e with state := .done } else e

theorem playedEntry_request (s : State) (n : Nat) (e : Entry) : (playedEntry s n e).request = e.request := by
  rw [playedEntry]
  split <;> rfl

theorem playedEntry_eq_of_ne_done {s : State} {n : Nat} {e : Entry} (h : (playedEntry s n e).state ≠ .done) :
    playedEntry s n e = e := by
  rw [playedEntry] at h ⊢
  split
  · rename_i hret
    simp [hret] at h
  · rfl

theorem leafState_queue (dst n : Nat) (s : State) : (leafState dst n s).queue = s.queue.map (playedEntry s n) := rfl

theorem programOf_base {s : State} (hq : QueueInv s) {v : Voice} {e : Entry} (he : e ∈ s.queue)
    (hr : v.req = some e.name) : (programOf s v).base = e.base :=
  ProgramFits.base hr (findEntry_of_mem hq.1 he)

/-- The program of a bound voice is in Q and in memory (R36, R69). -/
theorem programFits_of_inv {s : State} (h : Inv s) {v : Voice} (hv : v ∈ s.voices) (hb : isBound v = true) :
    ProgramFits s v := by
  obtain ⟨-, -, hq, hvoices, -⟩ := h
  obtain ⟨m, hr⟩ := Option.isSome_iff_exists.1 hb
  obtain ⟨e, he, rfl⟩ := entry_of_req hvoices hv hr
  obtain ⟨-, ⟨hlen, -, -, hfits, -⟩, -⟩ := hq.2 e he
  have hend := (hvoices.2.2.1 v hv e he hr).2.2.2.1
  exact ⟨e.name, e, hr, findEntry_of_mem hq.1 he, by rw [hend]; omega⟩

/-- From an invariant state a leaf window completes, with its closed form (R170). -/
theorem leafWindow_of_inv {s : State} (h : Inv s) {n : Nat} (hn : 1 ≤ n) (dst : Nat) :
    leafWindow dst n s = .next (leafState dst n s, activeNow s) :=
  leafWindow_eq h.1 h.2.2.2.1.1 (fun _ hv hb => programFits_of_inv h hv hb) hn dst

/-- A voice bound after a window was bound to the same entry before it. -/
theorem voiceAfter_bound {s : State} {n : Nat} {v : Voice} {m : Nat} (h : (voiceAfter s n v).req = some m) :
    v.req = some m ∧ isBound (voiceAfter s n v) = true := by
  rcases voiceAfter_req s n v with hr | hr
  · exact ⟨hr ▸ h, by simp [isBound, h]⟩
  · simp [hr] at h

theorem boundOk_turnOk {s : State} {v : Voice} {e : Entry} (h : BoundOk s v e) : TurnOk s.cfg v := by
  obtain ⟨-, -, -, -, hcur, hrunning, hfresh⟩ := h
  exact ⟨hcur, hrunning, hfresh⟩

theorem leafState_curr {dst n : Nat} {s : State} (h : s.curr.toNat + n < 2 ^ 64) :
    (leafState dst n s).curr.toNat = s.curr.toNat + n := by
  change (s.curr + BitVec.ofNat 64 n).toNat = _
  rw [BitVec.toNat_add, BitVec.toNat_ofNat, Nat.mod_eq_of_lt (by omega : n < 2 ^ 64), Nat.mod_eq_of_lt h]

theorem VoicesInv.leafState {s : State} (hc : s.cfg.Legal) (h : VoicesInv s) {dst n : Nat}
    (hclock : s.curr.toNat + n < 2 ^ 64) : VoicesInv (leafState dst n s) := by
  obtain ⟨hlen, hreq, hbound, hnodup, hplay⟩ := h
  rw [reqs_nodup_iff] at hnodup
  have hname (d : Entry) : (playedEntry s n d).name = d.name := congrArg Prod.fst (playedEntry_request s n d)
  have hnames : (Machine.leafState dst n s).queue.map (fun e => some e.name) = s.queue.map (fun e => some e.name) :=
    retireAll_map (fun e => some e.name) (fun _ _ => rfl) _ _ _
  refine ⟨by simpa [Machine.leafState] using hlen, fun w hmem => ?_, fun w hmem d' hd' hr => ?_, ?_,
    fun d' hd' hplaying => ?_⟩
  · obtain ⟨v, hv, rfl⟩ := List.mem_map.1 hmem
    rw [hnames]
    rcases voiceAfter_req s n v with hr | hr
    · rw [hr]
      exact hreq v hv
    · exact .inl hr
  · obtain ⟨v, hv, rfl⟩ := List.mem_map.1 hmem
    obtain ⟨d, hd, rfl⟩ := List.mem_map.1 (leafState_queue dst n s ▸ hd')
    rw [hname] at hr
    obtain ⟨hvr, hb⟩ := voiceAfter_bound hr
    have hkeeps : playedEntry s n d = d := by
      rw [playedEntry, if_neg]
      rintro ⟨w, hw, hwr, hnone⟩
      obtain ⟨j, hj⟩ := List.mem_iff_getElem?.1 hv
      obtain ⟨k, hk⟩ := List.mem_iff_getElem?.1 hw
      obtain rfl := hnodup j k v w d.name hj hk hvr hwr
      obtain rfl := Option.some.inj (hj.symm.trans hk)
      simp [hnone] at hr
    have hold := hbound v hv d hd hvr
    obtain ⟨hcur, hrunning, hfresh⟩ : TurnOk s.cfg (voiceAfter s n v) :=
      TurnOk.iterate (p := programOf s v) hc (boundOk_turnOk hold) hb
    obtain ⟨hstate, hstart, hle, hend, -⟩ := hold
    have hstart' : (voiceAfter s n v).start = v.start := nextVoice_iterate_start _ n v
    have hend' : (voiceAfter s n v).endIdx = v.endIdx := nextVoice_iterate_endIdx _ n v
    rw [hkeeps]
    refine ⟨hstate, hstart'.trans hstart, ?_, hend'.trans hend, hcur, hrunning, hfresh⟩
    rw [hstart', leafState_curr hclock]
    omega
  · rw [reqs_nodup_iff]
    intro i j x y m hi hj hx hy
    simp only [Machine.leafState, List.getElem?_map, Option.map_eq_some_iff] at hi hj
    obtain ⟨v, hv, rfl⟩ := hi
    obtain ⟨w, hw, rfl⟩ := hj
    exact hnodup i j v w m hv hw (voiceAfter_bound hx).1 (voiceAfter_bound hy).1
  · obtain ⟨d, hd, rfl⟩ := List.mem_map.1 (leafState_queue dst n s ▸ hd')
    have hkeeps : playedEntry s n d = d := playedEntry_eq_of_ne_done (by rw [hplaying]; decide)
    rw [hkeeps] at hplaying ⊢
    obtain ⟨v, hv, hr⟩ := List.mem_map.1 (hplay d hd hplaying)
    refine List.mem_map.2 ⟨voiceAfter s n v, List.mem_map.2 ⟨v, hv, rfl⟩, ?_⟩
    rcases voiceAfter_req s n v with hkept | hnone
    · exact hkept.trans hr
    · have hdone : playedEntry s n d = { d with state := .done } := by
        rw [playedEntry, if_pos ⟨v, hv, hr, hnone⟩]
      rw [hkeeps] at hdone
      rw [hdone] at hplaying
      cases hplaying

theorem noiseRun_ne_zero (p : Program) (n : Nat) (v : Voice) {x : Word} (h : x ≠ 0#32) : noiseRun p n v x ≠ 0#32 := by
  induction n generalizing v x with
  | zero => exact h
  | succ n ih =>
    refine ih _ ?_
    rw [nextNoise]
    split
    · rw [waveGen_draws]
      split
      · exact noiseStep_ne_zero h
      · exact h
    · exact h

theorem mixNoise_ne_zero (prog : Voice → Program) (n : Nat) (vs : List Voice) {x : Word} (h : x ≠ 0#32) :
    mixNoise prog n vs x ≠ 0#32 := by
  induction vs generalizing x with
  | nil => exact h
  | cons v vs ih => exact ih (noiseRun_ne_zero _ _ _ h)

theorem Inv.leafState {s : State} (h : Inv s) {dst n : Nat} (hw : WindowFits dst n s) (hdue : NothingDueWithin n s) :
    Inv (leafState dst n s) := by
  obtain ⟨hc, ⟨hwf, hin⟩, hq, hv, hidle, hnoise⟩ := h
  refine ⟨hc, ⟨storeSamples_wf _ hwf _ _, fun c hmem => ?_⟩, ?_, hv.leafState hc hw.clock, ⟨rfl, rfl, rfl⟩,
    mixNoise_ne_zero _ _ _ hnoise⟩
  · rcases mem_storeSamples _ hmem with hnew | hold
    · have hroom := hw.room
      rw [mixedSamples_length] at hnew
      exact Nat.lt_of_lt_of_le hnew.2 hroom
    · exact hin c hold
  · refine hq.of_restated rfl rfl (leafState_queue dst n s) (playedEntry_request s n) fun d hd hwait => ?_
    have hkeeps : playedEntry s n d = d := playedEntry_eq_of_ne_done (by rw [hwait]; decide)
    rw [leafState_curr hw.clock]
    exact hdue d hd (hkeeps ▸ hwait)

/-- A window off the pinned bytes leaves the programs as they are, and the voices play on in them. -/
theorem Carried.leafState {s : State} (h : Carried s) (hs : Inv s) {dst n : Nat} (hw : WindowFits dst n s) :
    Carried (leafState dst n s) := by
  obtain ⟨hc, ⟨hwf, -⟩, hq, hv, -⟩ := hs
  have hvoices := hv.leafState (dst := dst) (n := n) hc hw.clock
  intro w hmem d' hd' hr hcv
  have hbound := hvoices.2.2.1 w hmem d' hd' hr
  obtain ⟨v, hvmem, rfl⟩ := List.mem_map.1 hmem
  obtain ⟨d, hd, rfl⟩ := List.mem_map.1 (leafState_queue dst n s ▸ hd')
  obtain ⟨hname, hbase, hlen, -⟩ : (playedEntry s n d).name = d.name ∧ (playedEntry s n d).base = d.base ∧
      (playedEntry s n d).len = d.len ∧ _ := by
    simpa [Entry.request] using playedEntry_request s n d
  rw [hname] at hr
  obtain ⟨hvr, hb⟩ := voiceAfter_bound hr
  have hcarried : CarriedOk s.cfg s.mem d (voiceAfter s n v) :=
    CarriedOk.iterate (p := programOf s v) hc (programOf_base hq hd hvr).symm
      (boundOk_turnOk (hv.2.2.1 v hvmem d hd hvr)) (h v hvmem d hd hvr) hb hcv
  have hcur := (hbound.2.2.2.2.2.1 hcv).1
  rw [hbound.2.2.2.1, hlen] at hcur
  refine (hcarried.congr_mem (by omega) fun a ha ha' => ?_).congr_base hbase
  refine memRead_storeSamples_outside _ hwf _ _ ?_
  rw [mixedSamples_length]
  exact hw.unpinned d hd a ha ha'

end Sys2Proof.Machine
end


section
/-! SUPPORT. What a RENDER keeps from an invariant state: the induction along the leaf windows of R219, and the
invariant over every host move. -/

namespace Sys2Proof.Machine

/-! ## The windows of a RENDER -/

theorem WindowFits.of_buffers {s t : State} {dst n : Nat} (h : WindowFits dst n s) (hcfg : t.cfg = s.cfg)
    (hcurr : t.curr = s.curr) (hq : t.queue.map Entry.buffer = s.queue.map Entry.buffer) : WindowFits dst n t := by
  obtain ⟨hroom, hunpinned, hclock⟩ := h
  refine ⟨hcfg ▸ hroom, fun d hd a ha ha' => ?_, hcurr ▸ hclock⟩
  obtain ⟨e, he, hbuf⟩ := List.mem_map.1 (hq ▸ List.mem_map_of_mem hd)
  obtain ⟨hb, hl⟩ := Prod.mk.inj hbuf
  exact hunpinned e he a (hb ▸ ha) (hb ▸ hl ▸ ha')

theorem WindowFits.schedule {s : State} {dst n : Nat} (h : WindowFits dst n s) : WindowFits dst n (schedule s).1 :=
  h.of_buffers (schedule_frame s).1 (schedule_curr s) (schedule_keeps
    (P := fun t => t.queue.map Entry.buffer = s.queue.map Entry.buffer)
    (fun t e _ _ _ ht => (promote_map _ (fun _ _ => rfl) e t).trans ht) rfl)

/-- The first part of a window, and the rest of it after the first part. -/
theorem WindowFits.split {s : State} {dst m n : Nat} (h : WindowFits dst n s) (hm : m ≤ n) :
    WindowFits dst m s ∧ WindowFits (dst + 2 * m) (n - m) (leafState dst m s) := by
  obtain ⟨hroom, hunpinned, hclock⟩ := h
  refine ⟨⟨by omega, fun e he a ha ha' => ?_, by omega⟩, ?_, fun d hd a ha ha' => ?_, ?_⟩
  · have := hunpinned e he a ha ha'
    omega
  · change dst + 2 * m + 2 * (n - m) ≤ s.cfg.memSize
    omega
  · obtain ⟨e, he, hbuf⟩ : ∃ e ∈ s.queue, e.buffer = d.buffer := List.mem_map.1
      (retireAll_map Entry.buffer (fun _ _ => rfl) (voiceAfter s m) s.voices s.queue ▸ List.mem_map_of_mem hd)
    obtain ⟨hb, hl⟩ := Prod.mk.inj hbuf
    have := hunpinned e he a (hb ▸ ha) (hb ▸ hl ▸ ha')
    omega
  · rw [leafState_curr (by omega)]
    omega

theorem windowFits_of_refusal {s : State} {dst n : Nat} (h : renderRefusal dst n s = none) : WindowFits dst n s := by
  obtain ⟨-, hroom, -, hpinned, hclock⟩ := renderRefusal_none h
  refine ⟨hroom, fun e he a ha ha' => ?_, hclock⟩
  have := not_pinned_of_overlapsPinned hpinned he (x := a)
  omega

/-- The first leaf window ends no later than the first wait (R188, R219). -/
theorem nothingDue_firstLeaf (n : Nat) (s : State) : NothingDueWithin (firstLeaf n s) (schedule s).1 := by
  intro e he hw
  obtain ⟨hnone, hleast⟩ := scanQueue_least (schedule_ends s)
  cases ht : (schedule s).2 with
  | none => exact absurd hw ((hnone.1 ht).2 e he)
  | some t =>
    have hle := (hleast t ht).2.1 e he hw
    have hpos := schedule_time_pos ht
    have hfirst : firstLeaf n s ≤ t := by simp [firstLeaf, ht]
    omega

/-- From an invariant state a RENDER in a window that fits completes, in an invariant state, and keeps what its
scheduling steps and its leaf windows keep (R219). -/
theorem renderLoop_of_inv {P : State → Prop} (hsched : ∀ s, Inv s → P s → P (schedule s).1)
    (hleaf : ∀ dst n s, Inv s → WindowFits dst n s → NothingDueWithin n s → P s → P (leafState dst n s))
    {fuel dst n : Nat} {s : State} (hs : Inv s) (hw : WindowFits dst n s) (hn : 1 ≤ n) (hf : n ≤ fuel) (hP : P s) :
    ∃ r, renderLoop fuel dst n s = .next r ∧ Inv r.1 ∧ P r.1 := by
  induction fuel generalizing dst n s with
  | zero => omega
  | succ fuel ih =>
    have hpos := firstLeaf_pos hn s
    have hdue := nothingDue_firstLeaf n s
    obtain ⟨hw1, hw2⟩ := hw.schedule.split (firstLeaf_le n s)
    have hinv1 := hs.schedule.leafState hw1 hdue
    have hP1 := hleaf _ _ _ hs.schedule hw1 hdue (hsched s hs hP)
    rw [renderLoop_succ, leafWindow_of_inv hs.schedule hpos, andThen_next]
    by_cases hle : n ≤ firstLeaf n s
    · exact ⟨_, if_pos hle, hinv1, hP1⟩
    · obtain ⟨r, hr, hinv, hPr⟩ := ih hinv1 hw2 (by omega) (by omega) hP1
      rw [if_neg hle, hr, andThen_next]
      exact ⟨_, rfl, hinv, hPr⟩

theorem render1_of_inv {P : State → Prop} (hsched : ∀ s, Inv s → P s → P (schedule s).1)
    (hleaf : ∀ dst n s, Inv s → WindowFits dst n s → NothingDueWithin n s → P s → P (leafState dst n s))
    {dst n : Nat} {s : State} (hs : Inv s) (hw : WindowFits dst n s) (hn : 1 ≤ n) (hP : P s) :
    ∃ r, render1 n dst n s = .next r ∧ Inv r.1 ∧ P r.1 := by
  rw [render1_eq_renderLoop hn (Nat.le_refl n)]
  exact renderLoop_of_inv hsched hleaf hs hw hn (Nat.le_refl n) hP

/-! ## PLAY and STOP -/

/-- A bound voice is not bound to the entry a PLAY makes (R25). -/
theorem req_ne_nextName {s : State} (hq : QueueInv s) (hv : VoicesInv s) {v : Voice} (hmem : v ∈ s.voices) :
    v.req ≠ some s.nextName := fun hr => by
  obtain ⟨e, he, hname⟩ := entry_of_req hv hmem hr
  have := (hq.2 e he).1
  omega

theorem mem_sweep_enqueue {d : Int} {b l : Nat} {s : State} {e : Entry} (h : e ∈ (sweep (enqueue d b l s)).queue) :
    e = newEntry d b l s ∨ e ∈ s.queue ∧ e.state ≠ .done := by
  rw [sweep_queue, enqueue_queue, List.mem_filter] at h
  obtain ⟨hmem, hstate⟩ := h
  rcases List.mem_cons.1 hmem with rfl | hold
  · exact .inl rfl
  · exact .inr ⟨hold, by simpa [isDone] using hstate⟩

theorem mem_sweep_of_not_done {d : Int} {b l : Nat} {s : State} {e : Entry} (he : e ∈ s.queue) (h : e.state ≠ .done) :
    e ∈ (sweep (enqueue d b l s)).queue := by
  rw [sweep_queue, enqueue_queue]
  exact List.mem_filter.2 ⟨List.mem_cons_of_mem _ he, by simpa [isDone] using h⟩

theorem Inv.play {s : State} (h : Inv s) {d : Int} {b l : Nat} (hr : playRefusal d b l s = none) (hl : l % 12 = 0) :
    Inv (sweep (enqueue d b l s)) := by
  obtain ⟨hc, hmem, hq, hv, hidle, hnoise⟩ := h
  obtain ⟨hb, hl', hbl, hdev, hclock, -⟩ := playRefusal_none hr
  have hfree {v : Voice} (hmem : v ∈ s.voices) : v.req ≠ some s.nextName := req_ne_nextName hq hv hmem
  obtain ⟨hnames, hentry⟩ := hq
  obtain ⟨hlen, hreq, hbound, hnodup, hplay⟩ := hv
  refine ⟨hc, hmem, ⟨?_, fun e he => ?_⟩, ⟨hlen, fun v hmem => ?_, fun v hmem e he hre => ?_, hnodup, fun e he hp => ?_⟩,
    hidle, hnoise⟩
  · refine List.Nodup.sublist (List.filter_sublist.map Entry.name) ?_
    rw [enqueue_queue, List.map_cons, List.nodup_cons]
    refine ⟨fun hin => ?_, hnames⟩
    obtain ⟨e, he, hname⟩ := List.mem_map.1 hin
    have hlt := (hentry e he).1
    have : e.name = s.nextName := hname
    omega
  · rcases mem_sweep_enqueue he with rfl | ⟨hold, -⟩
    · have hstart : (newEntry d b l s).start.toNat = playStart s d := by
        change (BitVec.ofNat 64 (playStart s d)).toNat = _
        rw [BitVec.toNat_ofNat, Nat.mod_eq_of_lt hclock]
      refine ⟨Nat.lt_succ_self _, ⟨hl, hb, hl', hbl, hdev⟩, fun _ => ?_⟩
      rw [hstart]
      exact Nat.le_add_right _ _
    · obtain ⟨hlt, hok, hwait⟩ := hentry e hold
      exact ⟨Nat.lt_succ_of_lt hlt, hok, hwait⟩
  · rcases hreq v hmem with hnone | hin
    · exact .inl hnone
    · obtain ⟨e, he, hname⟩ := List.mem_map.1 hin
      have hplaying : e.state = .playing := (hbound v hmem e he hname.symm).1
      exact .inr (List.mem_map.2 ⟨e, mem_sweep_of_not_done he (by rw [hplaying]; decide), hname⟩)
  · rcases mem_sweep_enqueue he with rfl | ⟨hold, -⟩
    · exact absurd hre (hfree hmem)
    · exact hbound v hmem e hold hre
  · rcases mem_sweep_enqueue he with rfl | ⟨hold, -⟩
    · cases hp
    · exact hplay e hold hp

theorem Carried.play {s : State} (h : Carried s) (hs : Inv s) (d : Int) (b l : Nat) :
    Carried (sweep (enqueue d b l s)) := by
  obtain ⟨-, -, hq, hv, -⟩ := hs
  intro v hmem e he hr hcv
  rcases mem_sweep_enqueue he with rfl | ⟨hold, -⟩
  · exact absurd hr (req_ne_nextName hq hv hmem)
  · exact h v hmem e hold hr hcv

/-- With Q empty and no voice bound there is nothing to be kept but the lengths. -/
theorem Inv.of_unbound {s : State} (hc : s.cfg.Legal) (hmem : MemInv s) (hlen : s.voices.length = s.cfg.maxVoices)
    (hv : ∀ v ∈ s.voices, v.req = none) (hq : s.queue = []) (hidle : IdleInv s) (hnoise : s.noise ≠ 0#32) : Inv s := by
  have hreqs : s.voices.filterMap Voice.req = [] := by simpa [List.filterMap_eq_nil_iff] using hv
  refine ⟨hc, hmem, ⟨by simp [hq], by simp [hq]⟩, ⟨hlen, fun v hmem => .inl (hv v hmem), by simp [hq], ?_, by simp [hq]⟩,
    hidle, hnoise⟩
  rw [hreqs]
  exact List.nodup_nil

theorem Carried.of_empty {s : State} (hq : s.queue = []) : Carried s := by simp [Carried, hq]

/-- After reset (R50). -/
theorem Inv.resetWith {c : Config} (hc : c.Legal) {m : Memory} (hm : Memory.wf m ∧ ∀ d ∈ m, d.1 < c.memSize)
    (pending : List HostAction) : Inv { State.resetWith c with mem := m, pending := pending } :=
  Inv.of_unbound hc hm (by simp [State.resetWith])
    (fun v hv => by rw [List.eq_of_mem_replicate hv]; rfl) rfl ⟨rfl, rfl, rfl⟩ hc.2.2.2.2.2.2.1

/-! ## Every move -/

theorem CommandEffect.inv {s t : State} (h : CommandEffect s t) (hs : Inv s) : Inv t := by
  cases h with
  | nothing h | fatal _ _ _ _ _ _ h | renderNone _ h => exact h ▸ hs
  | play _ d b l hr hl h => exact h ▸ hs.play hr hl
  | stop _ h =>
    obtain ⟨hc, hmem, -, hv, hidle, hnoise⟩ := hs
    subst h
    exact Inv.of_unbound hc hmem (by simpa using hv.1) (by simp) rfl hidle hnoise
  | render _ dst n hr hn r h1 h =>
    obtain ⟨r', hr', hinv, -⟩ := render1_of_inv (P := fun _ => True) (fun _ _ _ => trivial)
      (fun _ _ _ _ _ _ _ => trivial) hs (windowFits_of_refusal hr) hn trivial
    rw [h1] at hr'
    injection hr' with hr'
    exact h ▸ hr' ▸ hinv

theorem CommandEffect.carried {s t : State} (h : CommandEffect s t) (hs : Inv s) (hcarried : Carried s) : Carried t := by
  cases h with
  | nothing h | fatal _ _ _ _ _ _ h | renderNone _ h => exact h ▸ hcarried
  | play _ d b l hr hl h => exact h ▸ hcarried.play hs d b l
  | stop _ h => exact h ▸ Carried.of_empty rfl
  | render _ dst n hr hn r h1 h =>
    obtain ⟨r', hr', -, hkept⟩ := render1_of_inv (P := Carried) (fun _ _ ht => ht.schedule)
      (fun _ _ _ ht hw _ hct => hct.leafState ht hw) hs (windowFits_of_refusal hr) hn hcarried
    rw [h1] at hr'
    injection hr' with hr'
    exact h ▸ hr' ▸ hkept

theorem MoveEffect.inv {a : HostAction} {s t : State} (h : MoveEffect a s t) (hs : Inv s) : Inv t := by
  cases h with
  | command h => exact h.inv hs
  | read _ h => exact h ▸ hs
  | arg _ h => rcases h with rfl | rfl | rfl <;> exact hs
  | store addr bs hm _ h =>
    obtain ⟨hc, ⟨hwf, hin⟩, hrest⟩ := hs
    subst h
    refine ⟨hc, ⟨memWriteBytes_wf hwf addr bs, fun c hmem => ?_⟩, hrest⟩
    rcases mem_memWriteBytes hmem with hnew | hold
    · exact Nat.lt_of_lt_of_le hnew.2 hm
    · exact hin c hold
  | reset _ h =>
    obtain ⟨hc, hmem, -⟩ := hs
    exact h ▸ Inv.resetWith hc hmem s.pending

/-- A host store leaves the programs of Q alone: their bytes are pinned (R67). -/
theorem Carried.store {s : State} (h : Carried s) (hs : Inv s) {addr : Nat} {bs : List Byte}
    (hp : overlapsPinned s.queue addr bs.length = false) : Carried { s with mem := memWriteBytes s.mem addr bs } := by
  obtain ⟨-, ⟨hwf, -⟩, -, hv, -⟩ := hs
  intro v hmem e he hr hcv
  have hbound := hv.2.2.1 v hmem e he hr
  have hcur := (hbound.2.2.2.2.2.1 hcv).1
  rw [hbound.2.2.2.1] at hcur
  refine (h v hmem e he hr hcv).congr_mem (by omega) fun a ha ha' => ?_
  have hout := not_pinned_of_overlapsPinned hp he (x := a)
  rw [memRead_memWriteBytes hwf, if_neg]
  omega

theorem MoveEffect.carried {a : HostAction} {s t : State} (h : MoveEffect a s t) (hs : Inv s) (hcarried : Carried s) :
    Carried t := by
  cases h with
  | command h => exact h.carried hs hcarried
  | read _ h => exact h ▸ hcarried
  | arg _ h => rcases h with rfl | rfl | rfl <;> exact hcarried
  | store _ _ _ hp h => exact h ▸ hcarried.store hs hp
  | reset _ h => exact h ▸ Carried.of_empty rfl

/-! ## Requests (R38, R39) -/

/-- Waiting, Playing and Done in the order of R39. -/
def EntryState.rank : EntryState → Nat
  | .waiting => 0
  | .playing => 1
  | .done => 2

theorem EntryState.mayBecome_iff {a b : EntryState} : a.mayBecome b ↔ a.rank ≤ b.rank := by
  cases a <;> cases b <;> simp [EntryState.mayBecome, EntryState.rank]

theorem EntryState.mayBecome_done (a : EntryState) : a.mayBecome .done := by
  rw [mayBecome_iff]
  cases a <;> decide

/-- Every request of `s` is in `t`, as it was or moved on (R38, R39). -/
def RequestsKept (s t : State) : Prop :=
  ∀ e ∈ s.queue, ∃ d ∈ t.queue, d.request = e.request ∧ e.state.mayBecome d.state

theorem RequestsKept.refl (s : State) : RequestsKept s s :=
  fun e he => ⟨e, he, rfl, EntryState.mayBecome_iff.2 (Nat.le_refl _)⟩

theorem RequestsKept.trans {s t u : State} (h1 : RequestsKept s t) (h2 : RequestsKept t u) : RequestsKept s u := by
  intro e he
  obtain ⟨d, hd, hreq, hmove⟩ := h1 e he
  obtain ⟨f, hf, hreq', hmove'⟩ := h2 d hd
  rw [EntryState.mayBecome_iff] at hmove hmove'
  exact ⟨f, hf, hreq'.trans hreq, EntryState.mayBecome_iff.2 (hmove.trans hmove')⟩

/-- A promotion moves the promoted request on, and the evicted one, which was Playing (R190, R191). -/
theorem RequestsKept.promote {s : State} {e : Entry} (h : Inv s) (he : e ∈ s.queue) (hw : isWaiting e = true) :
    RequestsKept s (promote e s) := by
  have hw : e.state = .waiting := by simpa [isWaiting] using hw
  obtain ⟨-, -, hq, -⟩ := h
  intro d hd
  rw [promote_queue_eq_map]
  refine ⟨_, List.mem_map_of_mem hd, promotedEntry_request _ _ _, ?_⟩
  by_cases hde : d.name = e.name
  · obtain rfl := entry_eq_of_name hq hd he hde
    rw [hw]
    trivial
  · rw [promotedEntry, if_neg hde]
    split
    · exact EntryState.mayBecome_done _
    · exact EntryState.mayBecome_iff.2 (Nat.le_refl _)

theorem RequestsKept.schedule {s : State} (h : Inv s) : RequestsKept s (schedule s).1 :=
  (schedule_keeps (P := fun t => Inv t ∧ RequestsKept s t)
    (fun _ _ he hw hdue ht => ⟨ht.1.promote he hw hdue, ht.2.trans (RequestsKept.promote ht.1 he hw)⟩)
    ⟨h, RequestsKept.refl s⟩).2

theorem RequestsKept.leafState (dst n : Nat) (s : State) : RequestsKept s (leafState dst n s) := by
  intro e he
  rw [leafState_queue]
  refine ⟨_, List.mem_map_of_mem he, playedEntry_request _ _ _, ?_⟩
  rw [playedEntry]
  split
  · exact EntryState.mayBecome_done _
  · exact EntryState.mayBecome_iff.2 (Nat.le_refl _)

/-- What becomes of a request in a step: kept, removed when Done, or removed with all of Q (R39, R195). -/
def RequestsMoved (s t : State) : Prop :=
  ∀ e ∈ s.queue, t.queue = [] ∨ (e.state = .done ∧ ∀ d ∈ t.queue, d.name ≠ e.name) ∨
    ∃ d ∈ t.queue, d.request = e.request ∧ e.state.mayBecome d.state

theorem RequestsKept.moved {s t : State} (h : RequestsKept s t) : RequestsMoved s t :=
  fun e he => .inr (.inr (h e he))

/-- PLAY sweeps the Done entries, and its own has a new name (R25, R213). -/
theorem RequestsMoved.play {s : State} (h : Inv s) (d : Int) (b l : Nat) : RequestsMoved s (sweep (enqueue d b l s)) := by
  obtain ⟨-, -, hq, -⟩ := h
  intro e he
  by_cases hdone : e.state = .done
  · refine .inr (.inl ⟨hdone, fun f hf hname => ?_⟩)
    rcases mem_sweep_enqueue hf with rfl | ⟨hold, hne⟩
    · have := (hq.2 e he).1
      have : s.nextName = e.name := hname
      omega
    · exact hne (entry_eq_of_name hq hold he hname ▸ hdone)
  · exact .inr (.inr ⟨e, mem_sweep_of_not_done he hdone, rfl, EntryState.mayBecome_iff.2 (Nat.le_refl _)⟩)

theorem CommandEffect.requests {s t : State} (h : CommandEffect s t) (hs : Inv s) : RequestsMoved s t := by
  cases h with
  | nothing h | fatal _ _ _ _ _ _ h | renderNone _ h => exact h ▸ (RequestsKept.refl s).moved
  | play _ d b l hr hl h => exact h ▸ RequestsMoved.play hs d b l
  | stop _ h => exact fun e _ => .inl (h ▸ rfl)
  | render _ dst n hr hn r h1 h =>
    obtain ⟨r', hr', -, hkept⟩ := render1_of_inv (P := RequestsKept s) (fun _ ht hk => hk.trans (RequestsKept.schedule ht))
      (fun _ _ _ _ _ _ hk => hk.trans (RequestsKept.leafState _ _ _)) hs (windowFits_of_refusal hr) hn
      (RequestsKept.refl s)
    rw [h1] at hr'
    injection hr' with hr'
    exact h ▸ hr' ▸ hkept.moved

theorem MoveEffect.requests {a : HostAction} {s t : State} (h : MoveEffect a s t) (hs : Inv s) : RequestsMoved s t := by
  cases h with
  | command h => exact h.requests hs
  | read _ h | store _ _ _ _ h => exact h ▸ (RequestsKept.refl s).moved
  | arg _ h => rcases h with rfl | rfl | rfl <;> exact (RequestsKept.refl s).moved
  | reset _ h => exact fun e _ => .inl (h ▸ rfl)

/-! ## The bounds of R157, in numbers -/

/-- The lowest and the highest tone step are furthest apart at the lowest rate. -/
theorem tonestep_spread {c : Config} (hc : c.Legal) : tonestep c 20000 ≤ tonestep c 20 + 2095054848 := by
  have hrate : 640 ≤ c.sampleRate := hc.1
  have hhigh : tonestep c 20000 * c.sampleRate ≤ 20000 * 2 ^ 26 := Nat.div_mul_le_self _ _
  have hlow : 20 * 2 ^ 26 < tonestep c 20 * c.sampleRate + c.sampleRate := Nat.lt_div_mul_add (by omega)
  by_contra hfar
  have hfar : tonestep c 20 + 2095054849 ≤ tonestep c 20000 := by omega
  have := Nat.mul_le_mul_right c.sampleRate hfar
  rw [Nat.add_mul] at this
  omega

/-- The steps of the ramps are bounded by what they stay between (R157). -/
theorem RampOk.steps {c : Config} (hc : c.Legal) {v : Voice} (h : RampOk c v) :
    |v.vstep.toInt| ≤ 67043328 ∧ |v.tdelta.toInt| ≤ 2095054848 := by
  obtain ⟨hs, -, hv0, hv1, hvend, hvend', ht0, ht1, htend, htend'⟩ := h
  have hv := ramp_step_within hs ⟨hv0, hv1⟩ ⟨hvend, hvend'⟩
  have ht := ramp_step_within hs ⟨Int.ofNat_le.2 ht0, Int.ofNat_le.2 ht1⟩ ⟨htend, htend'⟩
  have hspread := tonestep_spread hc
  exact ⟨abs_le.2 (by omega), abs_le.2 (by omega)⟩

/-- A running voice stays between the ends of the ramps of the instruction at its cursor (R157). -/
theorem CarriedOk.within {c : Config} {m : Memory} {e : Entry} {v : Voice} (h : CarriedOk c m e v) :
    let o := clampOps (opsAt m (e.base + 12 * v.cur))
    min ((o.sv : Int) * 2 ^ 16) ((o.ev : Int) * 2 ^ 16) ≤ v.vol.toInt ∧
    v.vol.toInt ≤ max ((o.sv : Int) * 2 ^ 16) ((o.ev : Int) * 2 ^ 16) ∧
    min (tonestep c o.f) (tonestep c o.ef) ≤ v.tstep.toNat ∧
    v.tstep.toNat ≤ max (tonestep c o.f) (tonestep c o.ef) := by
  obtain ⟨-, hmade, -, -, -, hvol, htone⟩ := h
  set o := clampOps (opsAt m (e.base + 12 * v.cur)) with ho
  obtain ⟨j, hj⟩ := Int.eq_ofNat_of_zero_le hmade
  have hle : j ≤ sampleCount c o.d := by omega
  have hv := volume_ramp_within c o hle
  have ht := tone_ramp_within c o hle
  rw [hj] at hvol htone
  rw [← hvol] at hv
  rw [← htone] at ht
  exact ⟨hv.1, hv.2, by exact_mod_cast ht.1, by exact_mod_cast ht.2⟩

end Sys2Proof.Machine
end

section
/-! The statements about the invariant, and what follows from it. -/

namespace Sys2Proof.Proofs

open Sys2Proof.Machine

/-- Settles O57: each effect of a move keeps the invariant, a RENDER window by window. -/
theorem stepKeepsTheInvariant : Obligations.StepKeepsTheInvariant := by
  intro s t hs h
  obtain ⟨-, ⟨-, rfl⟩ | ⟨a, rest, -, hmove⟩⟩ := step_effect h
  · exact hs
  · exact hmove.inv (s := { s with pending := rest }) hs

/-- Settles O58: only a voice's own turns write its registers, and nothing writes its program. -/
theorem stepKeepsVoicesTrueToTheirInstructions : Obligations.StepKeepsVoicesTrueToTheirInstructions := by
  intro s t hs hcarried h
  obtain ⟨-, ⟨-, rfl⟩ | ⟨a, rest, -, hmove⟩⟩ := step_effect h
  · exact hcarried
  · exact hmove.carried (s := { s with pending := rest }) hs hcarried

/-- Settles O60. -/
theorem requestsMoveForwardOnly : Obligations.RequestsMoveForwardOnly := by
  intro s t hs h
  obtain ⟨-, ⟨-, rfl⟩ | ⟨a, rest, -, hmove⟩⟩ := step_effect h
  · exact (RequestsKept.refl _).moved
  · exact hmove.requests (s := { s with pending := rest }) hs

/-- Settles O56: after reset Q is empty, no voice is bound, and no event has been emitted. -/
theorem invariantsHoldAtReset : Obligations.InvariantsHoldAtReset := by
  refine ⟨by decide +kernel, fun c hc => ⟨?_, Carried.of_empty rfl, fun _ _ => rfl⟩⟩
  exact Inv.resetWith hc (m := []) ⟨Memory.wf_nil, by simp⟩ []

/-- Settles O22: the invariant's bounds in numbers, and the ramps between their ends. -/
theorem runningVoiceIsWithinItsBounds : Obligations.RunningVoiceIsWithinItsBounds := by
  intro s v hs hv hreq
  obtain ⟨hc, -, -, hvoices, -⟩ := hs
  obtain ⟨m, hm⟩ := Option.ne_none_iff_exists'.1 hreq
  obtain ⟨e, he, rfl⟩ := entry_of_req hvoices hv hm
  obtain ⟨-, -, -, -, -, hrunning, hfresh⟩ := hvoices.2.2.1 v hv e he hm
  refine ⟨fun hcv => ?_, hfresh, fun d hd hcarried hr hcv => (hcarried v hv d hd hr hcv).within⟩
  obtain ⟨hcur, hramp⟩ := hrunning hcv
  obtain ⟨hvstep, htdelta⟩ := hramp.steps hc
  obtain ⟨hs, hs', hv0, hv1, -, -, ht0, ht1, -⟩ := hramp
  have hrange := tonestep_range hc
  exact ⟨hs, hs', hv0, by omega, by omega, by omega, hcur, hvstep, htdelta⟩

/-- Settles O34: the window fits, so every leaf window of it completes. -/
theorem renderCompletes : Obligations.RenderCompletes := by
  intro s dst n hs hf hend hdst hdev hpinned hclock
  have hr : renderRefusal dst n s = none :=
    renderRefusal_eq_none hdst hend hdev (overlapsPinned_eq_false hpinned) hclock
  obtain ⟨t, ht, hinv⟩ : ∃ t, renderCommand dst n s = .next t ∧ Inv t := by
    rcases Nat.eq_zero_or_pos n with h0 | hn
    · exact ⟨{ s with active := activeNow s }, by rw [renderCommand, if_neg (by simp [hf]), hr]; exact if_pos h0, hs⟩
    · obtain ⟨r, h1, hinv, -⟩ := render1_of_inv (P := fun _ => True) (fun _ _ _ => trivial)
        (fun _ _ _ _ _ _ _ => trivial) hs (windowFits_of_refusal hr) hn trivial
      exact ⟨_, renderCommand_of_render1 hf hr hn h1, hinv⟩
  have hdone := WindowDone.of_renderCommand hs.1 hs.2.1.1 hf ht
  have hvoices : t.voices.length = s.voices.length := by
    rw [hinv.2.2.2.1.1, hs.2.2.2.1.1, hdone.cfg]
  have hcurr : t.curr.toNat = s.curr.toNat + n := by
    rw [hdone.curr, BitVec.toNat_add, BitVec.toNat_ofNat]
    omega
  refine ⟨t, ht, hcurr, ?_⟩
  rcases renderCommand_next ht with ⟨hdead, -⟩ | ⟨-, -, -, rfl⟩ | ⟨-, -, hn, r, h1, rfl⟩
  · simp [hf] at hdead
  · exact ⟨hf, fun _ _ => rfl, rfl, rfl, rfl, rfl, rfl, rfl, rfl, rfl, rfl, rfl⟩
  · obtain ⟨hcfg, hfault, -, h0, h1', h2, hpins, hname, hpend, hbus, -⟩ := render1_frame h1
    exact ⟨hfault.trans hf, hdone.outside, render1_queue_map Entry.request (fun _ _ => rfl) h1, hpins, hvoices, hcfg, h0,
      h1', h2, hname, hpend, hbus⟩

end Sys2Proof.Proofs
end


section
/-! SUPPORT. The voices of a leaf window against their runs alone: the mix is the sum of what each adds (R172, R173). -/

namespace Sys2Proof.Machine

/-- A voice's run alone, on a zeroed window of `n` samples (R171). -/
def soloRun (n k : Nat) (s : State) : Host.Outcome State Fault Refusal :=
  runVoiceBySamples n { s with acc := List.replicate n 0, srvVoice := k, srvPos := 0 }

theorem soloRuns_cons (n k : Nat) (ks : List Nat) (s : State) :
    soloRuns n (k :: ks) s =
      if isBound (getVoice s k) then
        andThen (soloRun n k s) fun t => andThen (soloRuns n ks t) fun r => .next (t.acc :: r.1, r.2)
      else soloRuns n ks s := rfl

section Solo

variable {s : State} {n k : Nat}

theorem zeroed_acc_length (s : State) (n : Nat) : ({ s with acc := List.replicate n 0 } : State).acc.length = n := by
  simp

theorem runVoice_zeroed (hc : s.cfg.Legal) (hb : isBound (getVoice s k) = true) (hn : 1 ≤ n) :
    runVoice k { s with acc := List.replicate n 0 } = soloRun n k s := by
  have hlen := zeroed_acc_length s n
  rw [runVoice_eq_bySamples (s := { s with acc := List.replicate n 0 }) (k := k) hc hb (by rw [hlen]; exact hn), hlen]
  rfl

/-- In the mix a voice does what it does alone, on top of what ACC holds. -/
theorem runVoice_eq_soloRun (hc : s.cfg.Legal) (hb : isBound (getVoice s k) = true) (hn : 1 ≤ n) {b : List Int}
    (hlen : b.length = n) (a p : Nat) :
    runVoice k { s with acc := b, srvVoice := a, srvPos := p } =
      andThen (soloRun n k s) fun t => .next (addAcc b t) := by
  have hzero := zeroed_acc_length s n
  have hmixed := runVoice_addAcc (s := { s with acc := List.replicate n 0 }) (b := b) (hzero.trans hlen.symm) k
  rw [runVoice_zeroed hc hb hn] at hmixed
  have hsum := addAcc_zeros b s
  rw [hlen] at hsum
  rw [hsum] at hmixed
  exact hmixed

/-- A run alone keeps the parameters and the window's length. -/
theorem soloRun_frame (hc : s.cfg.Legal) (hb : isBound (getVoice s k) = true) (hn : 1 ≤ n) {t : State}
    (h : soloRun n k s = .next t) : t.cfg = s.cfg ∧ t.acc.length = n := by
  have hrun : runVoices [k] { s with acc := List.replicate n 0 } = .next t := by
    have hb' : isBound (getVoice { s with acc := List.replicate n 0 } k) = true := hb
    rw [runVoices, if_pos hb', runVoice_zeroed hc hb hn, h]
    rfl
  obtain ⟨hcfg, -, -, -, -, -, -, -, -, -, -, -, hacc, -⟩ := runVoices_frame hrun
  exact ⟨hcfg, hacc.trans (zeroed_acc_length s n)⟩

end Solo

/-- ACC after the voices whose runs alone are `runs`, on top of `b` (R173). -/
def mixedAcc (b : List Int) (runs : List (List Int)) : List Int := runs.foldl (List.zipWith (· + ·)) b

theorem getElem?_mixedAcc {b : List Int} {runs : List (List Int)} (hruns : ∀ r ∈ runs, r.length = b.length) (j : Nat) :
    (mixedAcc b runs)[j]? = b[j]?.map (· + (runs.map fun r => r.getD j 0).sum) := by
  induction runs generalizing b with
  | nil => simp [mixedAcc]
  | cons r runs ih =>
    have hr : r.length = b.length := hruns r List.mem_cons_self
    have hlen : (List.zipWith (· + ·) b r).length = b.length := by simp [hr]
    have hrest := ih (b := List.zipWith (· + ·) b r) fun q hq => (hruns q (List.mem_cons_of_mem r hq)).trans hlen.symm
    change (mixedAcc (List.zipWith (· + ·) b r) runs)[j]? = _
    rw [hrest]
    by_cases hj : j < b.length
    · simp [hj, hr ▸ hj, add_assoc]
    · simp [hj]

/-- Where the runs alone complete, so does the mix, with the same voices, Q and G.NOISE, and their sum in ACC. -/
theorem runVoices_of_soloRuns {n : Nat} (hn : 1 ≤ n) {ks : List Nat} {s u : State} {runs : List (List Int)}
    (hc : s.cfg.Legal) {b : List Int} (hlen : b.length = n) (a p : Nat) (h : soloRuns n ks s = .next (runs, u)) :
    (∀ r ∈ runs, r.length = n) ∧
    ∃ t, runVoices ks { s with acc := b, srvVoice := a, srvPos := p } = .next t ∧ t.voices = u.voices ∧
      t.queue = u.queue ∧ t.noise = u.noise ∧ t.acc = mixedAcc b runs := by
  induction ks generalizing s b a p runs u with
  | nil =>
    injection h with h
    obtain ⟨rfl, rfl⟩ := Prod.mk.inj h
    exact ⟨by simp, _, rfl, rfl, rfl, rfl, rfl⟩
  | cons k ks ih =>
    have hread : getVoice { s with acc := b, srvVoice := a, srvPos := p } k = getVoice s k := rfl
    rw [soloRuns_cons] at h
    rw [runVoices, hread]
    by_cases hb : isBound (getVoice s k) = true
    · rw [if_pos hb] at h ⊢
      obtain ⟨t1, ht1, h⟩ := andThen_eq_next.1 h
      obtain ⟨⟨runs', u'⟩, hrest, h⟩ := andThen_eq_next.1 h
      injection h with h
      obtain ⟨rfl, rfl⟩ := Prod.mk.inj h
      obtain ⟨hcfg, hacc⟩ := soloRun_frame hc hb hn ht1
      rw [runVoice_eq_soloRun hc hb hn hlen, ht1, andThen_next, andThen_next]
      have hlen' : (List.zipWith (· + ·) b t1.acc).length = n := by simp [hlen, hacc]
      obtain ⟨hruns, t, ht, hkept⟩ := ih (hcfg ▸ hc) hlen' t1.srvVoice t1.srvPos hrest
      refine ⟨fun r hr => ?_, t, ht, hkept⟩
      rcases List.mem_cons.1 hr with rfl | hr
      · exact hacc
      · exact hruns r hr
    · rw [if_neg hb] at h ⊢
      exact ih hc hlen a p h

/-- Where the mix completes, so do the runs alone. -/
theorem soloRuns_of_runVoices {n : Nat} (hn : 1 ≤ n) {ks : List Nat} {s t : State} (hc : s.cfg.Legal) {b : List Int}
    (hlen : b.length = n) (a p : Nat) (h : runVoices ks { s with acc := b, srvVoice := a, srvPos := p } = .next t) :
    ∃ runs u, soloRuns n ks s = .next (runs, u) := by
  induction ks generalizing s b a p with
  | nil => exact ⟨[], s, rfl⟩
  | cons k ks ih =>
    have hread : getVoice { s with acc := b, srvVoice := a, srvPos := p } k = getVoice s k := rfl
    rw [runVoices, hread] at h
    rw [soloRuns_cons]
    by_cases hb : isBound (getVoice s k) = true
    · rw [if_pos hb, runVoice_eq_soloRun hc hb hn hlen] at h
      obtain ⟨t1, ht1, h⟩ := andThen_eq_next.1 h
      obtain ⟨t2, ht2, ht1⟩ := andThen_eq_next.1 ht1
      injection ht1 with ht1
      subst ht1
      obtain ⟨hcfg, hacc⟩ := soloRun_frame hc hb hn ht2
      have hlen' : (List.zipWith (· + ·) b t2.acc).length = n := by simp [hlen, hacc]
      obtain ⟨runs, u, hrest⟩ := ih (hcfg ▸ hc) hlen' t2.srvVoice t2.srvPos h
      rw [if_pos hb, ht2, andThen_next, hrest]
      exact ⟨_, _, rfl⟩
    · rw [if_neg hb] at h ⊢
      exact ih hc hlen a p h

/-- The bounds of R174 as integers. -/
theorem saturatedSum_eq {c : Config} (runs : List (List Int)) (j : Nat) :
    saturatedSum c runs j = saturate c (runs.map fun r => r.getD j 0).sum := by
  have hmax : (c.maxval : Int) = 2 ^ (c.outputBits - 1) - 1 := by
    have := Nat.one_le_two_pow (n := c.outputBits - 1)
    rw [Config.maxval]
    push_cast [this]
    rfl
  rw [saturate_eq, hmax]
  rfl

end Sys2Proof.Machine
end

section
/-! The statement about the samples a RENDER stores. -/

namespace Sys2Proof.Proofs

open Sys2Proof.Machine

/-- Settles O35: the mix is the sum of the runs alone, the stores saturate it, and RENDER unsplit is one leaf window. -/
theorem renderedSamplesAreSaturated : Obligations.RenderedSamplesAreSaturated := by
  refine ⟨fun s u dst n runs hc hm hn h => ?_, fun s hs hf hn hr hsplit => ?_, fun s t dst n j hc hm hf h hj =>
    (WindowDone.of_renderCommand hc hm hf h).inside j hj⟩
  · obtain ⟨hruns, t, ht, hvoices, hqueue, hnoise, hacc⟩ :=
      runVoices_of_soloRuns hn hc (List.length_replicate (n := n) (a := (0 : Int))) 0 0 h
    obtain ⟨hcfg, hcurr, -, -, -, -, -, -, hmem, -, -, -, hlen, -⟩ := runVoices_frame ht
    have hlen : t.acc.length = n := by simpa using hlen
    have hleaf : leafWindow dst n s = .next (closeWindow dst t, activeNow s) := by
      rw [leafWindow]
      change andThen (runVoices _ { s with acc := List.replicate n 0, srvVoice := 0, srvPos := 0 }) _ = _
      rw [ht, andThen_next]
    have hdone := WindowDone.of_leaf hc hm hleaf
    refine ⟨_, hleaf, fun j hj => ?_, hdone.outside, hvoices, hqueue, hnoise, hdone.curr⟩
    have hsample : t.acc[j]? = some (0 + (runs.map fun r => r.getD j 0).sum) := by
      rw [hacc, getElem?_mixedAcc (by simpa using hruns)]
      simp [hj]
    obtain ⟨hj', hsample⟩ := List.getElem?_eq_some_iff.1 hsample
    rw [closeWindow_mem, hcfg, hmem, sampleAt_storeSamples hc hm dst t.acc hj', hsample, zero_add, saturatedSum_eq]
  · have hinv := hs.schedule
    have hleaf := leafWindow_of_inv hinv hn s.arg1.toNat
    obtain ⟨v, hv, -⟩ := leafWindow_next hleaf
    refine ⟨soloRuns_of_runVoices hn hinv.1 (List.length_replicate (n := s.arg0.toNat) (a := (0 : Int))) 0 0
      ((schedule_frame s).1 ▸ hv), _, _, hleaf, renderCommand_of_render1 hf hr hn ?_⟩
    obtain ⟨m, hm⟩ : ∃ m, s.arg0.toNat = m + 1 := ⟨s.arg0.toNat - 1, by omega⟩
    change render1 s.arg0.toNat s.arg1.toNat s.arg0.toNat s = _
    rw [hm] at hleaf hsplit ⊢
    rw [render1_of_no_split hsplit]
    exact hleaf

end Sys2Proof.Proofs
end


section
/-! SUPPORT. A RENDER of one due request of one instruction, every voice free (R154, R170, R185). -/

namespace Sys2Proof.Machine

/-- Unbound voices are skipped (R172). -/
theorem runVoices_of_free {ks : List Nat} {s : State} (h : ∀ k ∈ ks, isBound (getVoice s k) = false) :
    runVoices ks s = .next s := by
  induction ks with
  | nil => rfl
  | cons k ks ih =>
    rw [runVoices, if_neg (by simp [h k List.mem_cons_self]), andThen_next]
    exact ih fun j hj => h j (List.mem_cons_of_mem k hj)

/-- With every voice free the first one is bound (R189). -/
theorem chooseVoice_of_free {vs : List Voice} (h : ∀ v ∈ vs, v.req = none) : chooseVoice vs = 0 := by
  cases vs with
  | nil => rfl
  | cons v vs =>
    have hv : isBound v = false := unbound_iff.2 (h v List.mem_cons_self)
    have hfree : freeVoice (v :: vs) = some 0 := by rw [freeVoice, List.findIdx?_cons, hv]; rfl
    simp [chooseVoice, hfree]

/-- The last instruction of a request: at the end of its run the voice is inside it or unbound (R152, R153). -/
theorem exec_last_instruction {i : Instr} {code : Byte} {op : SoundOps} (hi : i.sound = some (code, op)) {s : State}
    (hc : s.cfg.Legal) (hk : s.srvVoice < s.voices.length)
    (hlast : (getVoice s s.srvVoice).endIdx ≤ (getVoice s s.srvVoice).cur + 1) :
    ∃ t, exec i s = .next t ∧ t.srvVoice = s.srvVoice ∧ (∀ j, j ≠ s.srvVoice → getVoice t j = getVoice s j) ∧
      (isBound (getVoice t s.srvVoice) && instrFinished (getVoice t s.srvVoice)) = false := by
  have hm : samplesMade s op ≤ sampleCount s.cfg (clampOps op).d := Nat.min_le_left _ _
  refine ⟨_, exec_sound_eq hi hc hk, rfl, fun j hj => ?_, ?_⟩
  · rw [getVoice_of_voices_set hk rfl, if_neg hj]
  · rw [getVoice_of_voices_set hk rfl, if_pos rfl, voiceAfterInstr_registers]
    by_cases hall : samplesMade s op = sampleCount s.cfg (clampOps op).d
    · rw [if_pos ⟨hall, hlast⟩]
      rfl
    · have hleft := enterVoice_sleft_toNat hc code op (getVoice s s.srvVoice)
      have hsleft := advanceVoice_iterate_sleft_toNat (hleft ▸ hm)
      rw [hleft] at hsleft
      rw [Bool.and_eq_false_iff]
      refine .inr ?_
      rw [instrFinished, beq_eq_false_iff_ne]
      intro h0
      have h0' := congrArg BitVec.toNat h0
      rw [hsleft, BitVec.toNat_ofNat] at h0'
      omega

/-- RunVoice of a fresh voice bound to a request of one instruction is that instruction (R154). -/
theorem runVoice_one_instruction {s : State} {k : Nat} {name : Nat} {e : Entry} {i : Instr} {rest : List Byte}
    (hc : s.cfg.Legal) (hsrv : s.srvVoice = k) (hpos : s.srvPos = 0) (hr : (getVoice s k).req = some name)
    (he : findEntry s.queue name = some e) (hcv : (getVoice s k).cv = false) (hcur : (getVoice s k).cur = 0)
    (hend : (getVoice s k).endIdx = 1) (hm : e.base + 12 ≤ s.cfg.memSize)
    (hd : decode .program (memReadBytes s.mem e.base 12) = .ok i rest) :
    ∃ t, exec i s = .next t ∧ runVoice k s = .next t ∧ ∀ j, j ≠ k → getVoice t j = getVoice s j := by
  subst hsrv
  have hs0 : { s with srvVoice := s.srvVoice, srvPos := 0 } = s := by rw [← hpos]
  have hb : isBound (getVoice s s.srvVoice) = true := by simp [isBound, hr]
  obtain ⟨code, op, rfl⟩ := decode_program_sound hd
  have hi := soundInstr_sound code op
  obtain ⟨t, ht, hsrv, hothers, hdone⟩ := exec_last_instruction hi hc (lt_of_isBound hb) (by rw [hend]; omega)
  have hfetch : fetchAndRun s = .next t := by
    have hbytes := fetchBytes_of_entry hr he (by rw [hcur]; exact hm)
    rw [hcur, Nat.mul_zero, Nat.add_zero] at hbytes
    rw [fetchAndRun, hbytes, andThen_next, hd]
    exact (execInProgram_sound hi s).trans ((exec_sound hi s).symm.trans ht)
  refine ⟨t, ht, ?_, hothers⟩
  have hfresh : exhausted (getVoice s s.srvVoice) = false := by simp [exhausted, hcur, hend]
  simp only [runVoice, hcv, hfresh, Bool.false_eq_true, if_false, hs0, hfetch, andThen_next, runOn]
  rw [hsrv, if_neg (by rw [hdone]; decide)]

/-- A leaf window in which only the first voice is bound is that voice's run (R172). -/
theorem leafWindow_first_voice {s t : State} {dst n : Nat} (hc : s.cfg.Legal)
    (hb : isBound (getVoice s 0) = true) (hfree : ∀ j, j ≠ 0 → isBound (getVoice s j) = false)
    (ht : runVoice 0 (openWindow n s) = .next t) (hothers : ∀ j, j ≠ 0 → getVoice t j = getVoice s j) :
    leafWindow dst n s = .next (closeWindow dst t, activeNow s) := by
  have hrest : runVoices ((List.range (s.cfg.maxVoices - 1)).map Nat.succ) t = .next t := by
    refine runVoices_of_free fun k hk => ?_
    obtain ⟨j, -, rfl⟩ := List.mem_map.1 hk
    rw [hothers _ (Nat.succ_ne_zero j)]
    exact hfree _ (Nat.succ_ne_zero j)
  have hrange : List.range s.cfg.maxVoices = 0 :: (List.range (s.cfg.maxVoices - 1)).map Nat.succ := by
    rw [← List.range_succ_eq_map, Nat.sub_add_cancel hc.2.2.2.2.1]
  have hb' : isBound (getVoice (openWindow n s) 0) = true := hb
  rw [leafWindow, hrange, runVoices, if_pos hb', ht, andThen_next, hrest, andThen_next]

/-- One due request: it is promoted, and nothing waits (R185). -/
theorem schedule_single {s : State} {e : Entry} (hq : s.queue = [e]) (hw : e.state = .waiting)
    (hdue : e.start.toNat ≤ s.curr.toNat) :
    schedule s = (promote e s, none) ∧ (promote e s).queue = [{ e with state := .playing }] := by
  have hqueue : (promote e s).queue = [{ e with state := .playing }] := by
    rw [promote_queue_eq_map, hq, List.map_singleton, promotedEntry, if_pos rfl]
  have hscan : scanQueue s.curr s.queue none = (some e, none) := by simp [hq, scanQueue, isWaiting, hw, hdue]
  refine ⟨?_, hqueue⟩
  rw [schedule_of_due hscan]
  refine schedule_of_none ?_
  rw [hqueue]
  rfl

end Sys2Proof.Machine
end

section
/-! The statement about a step that runs a one-instruction program. -/

namespace Sys2Proof.Proofs

open Sys2Proof.Machine

/-- Settles O8: the request is promoted to the first voice, whose run is the instruction and the only one of the
window. -/
theorem stepRunsAOneInstructionProgram : Obligations.StepRunsAOneInstructionProgram := by
  intro s e i rest hc h32 hlen hfree hf hpend hn hr hq hw hdue hlast hm hd
  set s1 : State := { s with pending := rest } with hs1
  set s2 := promote e s1 with hs2
  have hvs : s1.voices ≠ [] := by
    intro hnil
    have hmax : 1 ≤ s.cfg.maxVoices := hc.2.2.2.2.1
    have hnil : s.voices = [] := hnil
    rw [hnil] at hlen
    simp at hlen
    omega
  obtain ⟨hsched, hqueue⟩ := schedule_single (s := s1) hq hw hdue
  have hchoose : chooseVoice s1.voices = 0 := chooseVoice_of_free hfree
  have h0 : 0 < s1.voices.length := List.length_pos_of_ne_nil hvs
  have hread (j : Nat) : getVoice s2 j = if j = 0 then bindVoice e s1.curr (getVoice s1 0) else getVoice s1 j :=
    getVoice_of_voices_set h0 (by rw [hs2, promote_voices, hchoose]) j
  have hbound : getVoice s2 0 = bindVoice e s1.curr (getVoice s1 0) := (hread 0).trans (if_pos rfl)
  have hothers (j : Nat) (hj : j ≠ 0) : isBound (getVoice s2 j) = false := by
    rw [hread, if_neg hj]
    by_contra hb
    rw [Bool.not_eq_false] at hb
    have hnone := unbound_iff.2 (hfree _ (getVoice_mem (lt_of_isBound hb)))
    exact absurd (hb.symm.trans hnone) (by decide)
  have hopen (j : Nat) : getVoice (openWindow s.arg0.toNat s2) j = getVoice s2 j := rfl
  obtain ⟨t, ht, hrun, hkept⟩ := runVoice_one_instruction (s := openWindow s.arg0.toNat s2) (k := 0) (name := e.name)
    (e := { e with state := .playing }) (i := i) (rest := []) hc rfl rfl (by rw [hopen, hbound]; rfl)
    (by rw [openWindow_queue, hqueue]; simp [findEntry]) (by rw [hopen, hbound]; rfl) (by rw [hopen, hbound]; rfl)
    (by rw [hopen, hbound, bindVoice, hlast]; rfl) hm hd
  have hleaf := leafWindow_first_voice (dst := s.arg1.toNat) (s := s2) hc (by rw [hbound]; rfl) hothers hrun hkept
  rw [hs2, activeNow_promote e hvs, ← hs2] at hleaf
  refine ⟨t, ht, ?_⟩
  obtain ⟨i', hi', hstep⟩ := stepRunsTheDecodedCommand s 3#32 rest hc h32 hpend
  obtain rfl : i' = .render := by
    rw [decode_command_bytesOfWord] at hi'
    injection hi' with hi'
    exact hi'.symm
  rw [hstep, ← hs1]
  refine renderCommand_of_render1 (s := s1) hf hr hn ?_
  change render1 s.arg0.toNat s.arg1.toNat s.arg0.toNat s1 = _
  obtain ⟨m, hm⟩ : ∃ m, s.arg0.toNat = m + 1 := ⟨s.arg0.toNat - 1, by omega⟩
  rw [hm] at hleaf ⊢
  rw [render1_of_no_split (by simp [hsched]), hsched]
  exact hleaf

end Sys2Proof.Proofs
end


section
/-! SUPPORT. Leaf windows cut in two: each voice plays on where it was, and with at most one voice in NOISE the stream is
drawn in the same order (R172, R178, R216). -/

namespace Sys2Proof.Machine

/-! ## A voice and its program -/

/-- The programs read the same instructions for the voice: the same parameters, the same BASE, the same bytes up to the
voice's end. -/
structure SameProgram (p p' : Program) (v : Voice) : Prop where
  cfg  : p'.cfg = p.cfg
  base : p'.base = p.base
  mem  : ∀ a, p.base ≤ a → a < p.base + 12 * v.endIdx → memRead p'.mem a = memRead p.mem a

section Congr

variable {p p' : Program} {v : Voice}

theorem enteredVoice_congr (h : SameProgram p p' v) (hcur : v.cur < v.endIdx) : enteredVoice p' v = enteredVoice p v := by
  have hread (i : Nat) (hi : i < 12) : memRead p'.mem (p.base + 12 * v.cur + i) = memRead p.mem (p.base + 12 * v.cur + i) :=
    h.mem _ (by omega) (by omega)
  have hops : opsAt p'.mem (p.base + 12 * v.cur) = opsAt p.mem (p.base + 12 * v.cur) := by
    simp only [opsAt, hread, Nat.reduceLT]
  have hwave := hread 0 (by decide)
  rw [Nat.add_zero] at hwave
  rw [enteredVoice, enteredVoice, h.cfg, h.base, hops, hwave]

theorem startedVoice_congr (h : SameProgram p p' v) (hs : sounds v = true) : startedVoice p' v = startedVoice p v := by
  by_cases hcv : v.cv = true
  · rw [startedVoice_of_cv p hcv, startedVoice_of_cv p' hcv]
  · have hcur : v.cur < v.endIdx := by simpa [sounds, hcv, exhausted] using (Bool.and_eq_true_iff.1 hs).2
    rw [startedVoice, startedVoice, if_neg hcv, if_neg hcv, enteredVoice_congr h hcur]

theorem settledVoice_congr {w : Voice} (h : SameProgram p p' v) (hw : w.endIdx = v.endIdx) :
    settledVoice p' w = settledVoice p w := by
  have hfinish : SameProgram p p' (finishVoice w) := ⟨h.cfg, h.base, fun a ha ha' => h.mem a ha (hw ▸ ha')⟩
  rw [settledVoice, settledVoice]
  by_cases hb : isBound (finishVoice w) = true
  · have hmore : ¬w.endIdx ≤ w.cur + 1 := fun hlast => by simp [finishVoice, isBound, hlast] at hb
    rw [enteredVoice_congr hfinish (Nat.lt_of_not_le hmore)]
  · rw [if_neg hb, if_neg hb]

theorem nextVoice_congr (h : SameProgram p p' v) : nextVoice p' v = nextVoice p v := by
  rw [nextVoice, nextVoice]
  by_cases hs : sounds v = true
  · rw [if_pos hs, if_pos hs, startedVoice_congr h hs]
    exact settledVoice_congr h (by rw [advanceVoice_endIdx, startedVoice_endIdx])
  · rw [if_neg hs, if_neg hs]

theorem nextNoise_congr (h : SameProgram p p' v) (x : Word) : nextNoise p' v x = nextNoise p v x := by
  rw [nextNoise, nextNoise, h.cfg]
  by_cases hs : sounds v = true
  · rw [startedVoice_congr h hs]
  · rw [if_neg hs, if_neg hs]

theorem sampleOf_congr (h : SameProgram p p' v) (x : Word) : sampleOf p' v x = sampleOf p v x := by
  rw [sampleOf, sampleOf, h.cfg]
  by_cases hs : sounds v = true
  · rw [startedVoice_congr h hs]
  · rw [if_neg hs, if_neg hs]

theorem SameProgram.next (h : SameProgram p p' v) : SameProgram p p' (nextVoice p v) :=
  ⟨h.cfg, h.base, fun a ha ha' => h.mem a ha (nextVoice_endIdx p v ▸ ha')⟩

end Congr

/-! ## NOISE within the window -/

/-- The next sample of the voice is one of a NOISE instruction. -/
def drawsNoise (p : Program) (v : Voice) : Bool := sounds v && (startedVoice p v).wave == 5#8

/-- The voice plays NOISE at one of its next `n` samples. -/
def noisy (p : Program) : Nat → Voice → Bool
  | 0, _ => false
  | n + 1, v => drawsNoise p v || noisy p n (nextVoice p v)

theorem drawsNoise_of_unbound (p : Program) {v : Voice} (h : isBound v = false) : drawsNoise p v = false := by
  simp [drawsNoise, sounds_of_unbound h]

theorem noisy_of_unbound (p : Program) {v : Voice} (h : isBound v = false) (n : Nat) : noisy p n v = false := by
  induction n with
  | zero => rfl
  | succ n ih => rw [noisy, drawsNoise_of_unbound p h, nextVoice_of_unbound p h, ih]; rfl

theorem noisy_add (p : Program) (a b : Nat) (v : Voice) :
    noisy p (a + b) v = (noisy p a v || noisy p b ((nextVoice p)^[a] v)) := by
  induction a generalizing v with
  | zero => simp [noisy]
  | succ a ih => rw [Nat.succ_add, noisy, noisy, ih, Function.iterate_succ_apply, Bool.or_assoc]

/-- A sample of another instruction draws nothing and does not depend on the stream (R120, R129). -/
theorem turn_of_quiet {p : Program} {v : Voice} (h : drawsNoise p v = false) (x y : Word) :
    nextNoise p v x = x ∧ sampleOf p v x = sampleOf p v y := by
  rw [nextNoise, sampleOf, sampleOf]
  by_cases hs : sounds v = true
  · have hwave : (startedVoice p v).wave ≠ 5#8 := by simpa [drawsNoise, hs] using h
    rw [if_pos hs, if_pos hs, if_pos hs, waveGen_draws, if_neg hwave, waveGen_amp_congr hwave p.cfg _ x y]
    exact ⟨rfl, rfl⟩
  · rw [if_neg hs, if_neg hs, if_neg hs]
    exact ⟨rfl, rfl⟩

theorem noiseRun_of_quiet {p : Program} {n : Nat} {v : Voice} (h : noisy p n v = false) (x : Word) :
    noiseRun p n v x = x := by
  induction n generalizing v with
  | zero => rfl
  | succ n ih =>
    obtain ⟨hdraw, hrest⟩ := Bool.or_eq_false_iff.1 h
    rw [noiseRun, (turn_of_quiet hdraw x x).1, ih hrest]

theorem sampleRun_of_quiet {p : Program} {n j : Nat} (hj : j < n) {v : Voice} (h : noisy p n v = false) (x y : Word) :
    sampleRun p j v x = sampleRun p j v y := by
  induction n generalizing v j with
  | zero => omega
  | succ n ih =>
    obtain ⟨hdraw, hrest⟩ := Bool.or_eq_false_iff.1 h
    cases j with
    | zero => exact (turn_of_quiet hdraw x y).2
    | succ j =>
      rw [sampleRun, sampleRun, (turn_of_quiet hdraw x x).1, (turn_of_quiet hdraw y y).1]
      exact ih (by omega) hrest

/-! ## A window in two parts -/

theorem noiseRun_add (p : Program) (a b : Nat) (v : Voice) (x : Word) :
    noiseRun p (a + b) v x = noiseRun p b ((nextVoice p)^[a] v) (noiseRun p a v x) := by
  induction a generalizing v x with
  | zero => rw [Nat.zero_add, Function.iterate_zero_apply, noiseRun]
  | succ a ih => rw [Nat.succ_add, noiseRun, noiseRun, ih, Function.iterate_succ_apply]

theorem sampleRun_add (p : Program) (a j : Nat) (v : Voice) (x : Word) :
    sampleRun p (a + j) v x = sampleRun p j ((nextVoice p)^[a] v) (noiseRun p a v x) := by
  induction a generalizing v x with
  | zero => rw [Nat.zero_add, Function.iterate_zero_apply, noiseRun]
  | succ a ih => rw [Nat.succ_add, sampleRun, noiseRun, ih, Function.iterate_succ_apply]

/-- The voice does not see that its program has moved on from `p` to `p'`: it is unbound, or the programs agree. -/
def Continues (p p' : Program) (v : Voice) : Prop := isBound v = false ∨ SameProgram p p' v

section Continues

variable {p p' : Program} {v : Voice}

theorem Continues.iterate (h : Continues p p' v) (n : Nat) : (nextVoice p')^[n] v = (nextVoice p)^[n] v := by
  rcases h with hb | h
  · rw [nextVoice_iterate_of_unbound p hb, nextVoice_iterate_of_unbound p' hb]
  · induction n generalizing v with
    | zero => rw [Function.iterate_zero_apply, Function.iterate_zero_apply]
    | succ n ih => rw [Function.iterate_succ_apply, Function.iterate_succ_apply, nextVoice_congr h, ih h.next]

theorem Continues.noiseRun (h : Continues p p' v) (n : Nat) (x : Word) : noiseRun p' n v x = noiseRun p n v x := by
  rcases h with hb | h
  · rw [noiseRun_of_unbound p hb, noiseRun_of_unbound p' hb]
  · induction n generalizing v x with
    | zero => rfl
    | succ n ih => rw [Machine.noiseRun, Machine.noiseRun, nextVoice_congr h, nextNoise_congr h, ih _ h.next]

theorem Continues.sampleRun (h : Continues p p' v) (j : Nat) (x : Word) : sampleRun p' j v x = sampleRun p j v x := by
  rcases h with hb | h
  · rw [sampleRun_of_unbound p hb, sampleRun_of_unbound p' hb]
  · induction j generalizing v x with
    | zero => exact sampleOf_congr h x
    | succ j ih => rw [Machine.sampleRun, Machine.sampleRun, nextVoice_congr h, nextNoise_congr h, ih _ h.next]

end Continues

/-! ## The mix -/

theorem mixNoise_of_quiet {prog : Voice → Program} {n : Nat} {vs : List Voice}
    (h : ∀ v ∈ vs, noisy (prog v) n v = false) (x : Word) : mixNoise prog n vs x = x := by
  induction vs with
  | nil => rfl
  | cons v vs ih =>
    rw [mixNoise, noiseRun_of_quiet (h v List.mem_cons_self)]
    exact ih fun w hw => h w (List.mem_cons_of_mem v hw)

theorem mixSample_of_quiet {prog : Voice → Program} {n j : Nat} (hj : j < n) {vs : List Voice}
    (h : ∀ v ∈ vs, noisy (prog v) n v = false) (x y : Word) : mixSample prog n j vs x = mixSample prog n j vs y := by
  induction vs with
  | nil => rfl
  | cons v vs ih =>
    have hv := h v List.mem_cons_self
    rw [mixSample, mixSample, noiseRun_of_quiet hv, noiseRun_of_quiet hv, sampleRun_of_quiet hj hv x y,
      ih fun w hw => h w (List.mem_cons_of_mem v hw)]

/-- At most one of the voices plays NOISE within `n` samples (R172, R178). -/
def OneNoisy (prog : Voice → Program) (n : Nat) (vs : List Voice) : Prop :=
  vs.countP (fun v => noisy (prog v) n v) ≤ 1

/-- Either the first voice is quiet, or the others are. -/
theorem OneNoisy.cons {prog : Voice → Program} {n : Nat} {v : Voice} {vs : List Voice} (h : OneNoisy prog n (v :: vs)) :
    OneNoisy prog n vs ∧ (noisy (prog v) n v = false ∨ ∀ w ∈ vs, noisy (prog w) n w = false) := by
  rw [OneNoisy, List.countP_cons] at h
  refine ⟨by rw [OneNoisy]; omega, ?_⟩
  by_cases hv : noisy (prog v) n v = true
  · rw [if_pos hv] at h
    have hnone : vs.countP (fun v => noisy (prog v) n v) = 0 := by omega
    exact .inr (by simpa [List.countP_eq_zero] using hnone)
  · exact .inl (by simpa using hv)

section Mix

variable {prog prog' : Voice → Program} {a b : Nat} {vs : List Voice}

/-- The voice after `a` turns. -/
def afterTurns (prog : Voice → Program) (a : Nat) (v : Voice) : Voice := (nextVoice (prog v))^[a] v

/-- The quiet voices of the whole window are quiet in both parts of it. -/
theorem quiet_parts {v : Voice} (h : noisy (prog v) (a + b) v = false) :
    noisy (prog v) a v = false ∧ noisy (prog v) b (afterTurns prog a v) = false := by
  rw [noisy_add] at h
  exact Bool.or_eq_false_iff.1 h

theorem mixNoise_continues (vs : List Voice)
    (hcont : ∀ v ∈ vs, Continues (prog v) (prog' (afterTurns prog a v)) (afterTurns prog a v))
    (hquiet : ∀ v ∈ vs, noisy (prog v) (a + b) v = false) (x : Word) :
    mixNoise prog' b (vs.map (afterTurns prog a)) x = x := by
  induction vs with
  | nil => rfl
  | cons v vs ih =>
    rw [List.map_cons, mixNoise, (hcont v List.mem_cons_self).noiseRun,
      noiseRun_of_quiet (quiet_parts (hquiet v List.mem_cons_self)).2]
    exact ih (fun w hw => hcont w (List.mem_cons_of_mem v hw)) fun w hw => hquiet w (List.mem_cons_of_mem v hw)

/-- The stream is drawn in the same order when the window is cut. -/
theorem mixNoise_add (hcont : ∀ v ∈ vs, Continues (prog v) (prog' (afterTurns prog a v)) (afterTurns prog a v))
    (hone : OneNoisy prog (a + b) vs) (x : Word) :
    mixNoise prog (a + b) vs x = mixNoise prog' b (vs.map (afterTurns prog a)) (mixNoise prog a vs x) := by
  induction vs generalizing x with
  | nil => rfl
  | cons v vs ih =>
    have hcont' : ∀ w ∈ vs, Continues (prog w) (prog' (afterTurns prog a w)) (afterTurns prog a w) :=
      fun w hw => hcont w (List.mem_cons_of_mem v hw)
    obtain ⟨hrest, hv | hvs⟩ := hone.cons
    · obtain ⟨hva, hvb⟩ := quiet_parts hv
      rw [List.map_cons, mixNoise, mixNoise, mixNoise, (hcont v List.mem_cons_self).noiseRun, noiseRun_of_quiet hv,
        noiseRun_of_quiet hva, noiseRun_of_quiet hvb]
      exact ih hcont' hrest x
    · rw [List.map_cons, mixNoise, mixNoise, mixNoise, (hcont v List.mem_cons_self).noiseRun,
        mixNoise_of_quiet hvs, mixNoise_of_quiet fun w hw => (quiet_parts (hvs w hw)).1, mixNoise_continues vs hcont' hvs,
        noiseRun_add]
      rfl

/-- A sample of the first part. -/
theorem mixSample_first {j : Nat} (hj : j < a) (hone : OneNoisy prog (a + b) vs) (x : Word) :
    mixSample prog (a + b) j vs x = mixSample prog a j vs x := by
  induction vs generalizing x with
  | nil => rfl
  | cons v vs ih =>
    obtain ⟨hrest, hv | hvs⟩ := hone.cons
    · rw [mixSample, mixSample, noiseRun_of_quiet hv, noiseRun_of_quiet (quiet_parts hv).1, ih hrest]
    · rw [mixSample, mixSample, ih hrest, mixSample_of_quiet hj (fun w hw => (quiet_parts (hvs w hw)).1)]

/-- A sample of the second part. -/
theorem mixSample_second (hcont : ∀ v ∈ vs, Continues (prog v) (prog' (afterTurns prog a v)) (afterTurns prog a v))
    {j : Nat} (hj : j < b) (hone : OneNoisy prog (a + b) vs) (x : Word) :
    mixSample prog (a + b) (a + j) vs x =
      mixSample prog' b j (vs.map (afterTurns prog a)) (mixNoise prog a vs x) := by
  induction vs generalizing x with
  | nil => rfl
  | cons v vs ih =>
    have hcont' : ∀ w ∈ vs, Continues (prog w) (prog' (afterTurns prog a w)) (afterTurns prog a w) :=
      fun w hw => hcont w (List.mem_cons_of_mem v hw)
    have hvcont := hcont v List.mem_cons_self
    obtain ⟨hrest, hv | hvs⟩ := hone.cons
    · obtain ⟨hva, hvb⟩ := quiet_parts hv
      rw [List.map_cons, mixSample, mixSample, mixNoise, hvcont.noiseRun, hvcont.sampleRun, noiseRun_of_quiet hv,
        noiseRun_of_quiet hva, noiseRun_of_quiet hvb, ← ih hcont' hrest, sampleRun_add, noiseRun_of_quiet hva]
      exact congrArg (· + _) (sampleRun_of_quiet hj hvb x (mixNoise prog a vs x))
    · have hquiet : ∀ w ∈ vs, noisy (prog w) a w = false := fun w hw => (quiet_parts (hvs w hw)).1
      have htail := ih hcont' hrest (noiseRun (prog v) (a + b) v x)
      rw [mixNoise_of_quiet hquiet] at htail
      rw [List.map_cons, mixSample, mixSample, mixNoise, hvcont.sampleRun, hvcont.noiseRun, mixNoise_of_quiet hquiet,
        sampleRun_add, htail, noiseRun_add]
      rfl

end Mix

end Sys2Proof.Machine
end


section
/-! SUPPORT. A RENDER cut in two: one leaf window cut at any sample, the wait that is left, and the loop of R219 along
both (R188, R216, R219). -/

namespace Sys2Proof.Machine

/-! ## The statement's terms for NOISE, on the voice alone -/

theorem nextSampleIsNoise_eq {s : State} (hfit : ProgramFits s (getVoice s s.srvVoice)) :
    nextSampleIsNoise s = drawsNoise (programOf s (getVoice s s.srvVoice)) (getVoice s s.srvVoice) := by
  have hb := hfit.bound
  have hk := lt_of_isBound hb
  rw [nextSampleIsNoise]
  by_cases hcv : (getVoice s s.srvVoice).cv = true
  · simp only [hcv, if_true, drawsNoise, sounds_of_cv hb hcv, startedVoice_of_cv _ hcv, Bool.true_and]
  · simp only [if_neg hcv]
    by_cases hempty : (getVoice s s.srvVoice).endIdx ≤ (getVoice s s.srvVoice).cur
    · simp [hempty, drawsNoise, sounds, hcv, exhausted]
    · have hsounds : sounds (getVoice s s.srvVoice) = true := by simp [sounds, hb, exhausted, Nat.lt_of_not_le hempty]
      rw [if_neg hempty, enterAtCursor_eq hfit (Nat.lt_of_not_le hempty), drawsNoise, hsounds, startedVoice, if_neg hcv]
      simp only [setVoice_srvVoice, getVoice_setVoice_self hk, Bool.true_and]

theorem playsNoiseWithin_eq {s : State} (hfit : ProgramFits s (getVoice s s.srvVoice)) (n : Nat) :
    playsNoiseWithin n s = noisy (programOf s (getVoice s s.srvVoice)) n (getVoice s s.srvVoice) := by
  induction n generalizing s with
  | zero => rfl
  | succ n ih =>
    have hk := lt_of_isBound hfit.bound
    have hread : getVoice (voiceTurn (programOf s (getVoice s s.srvVoice)) s) s.srvVoice =
        nextVoice (programOf s (getVoice s s.srvVoice)) (getVoice s s.srvVoice) :=
      (getVoice_of_voices_set hk rfl _).trans (if_pos rfl)
    rw [playsNoiseWithin, noisy, nextSampleIsNoise_eq hfit, voiceSample_eq hfit]
    congr 1
    cases hb : isBound (nextVoice (programOf s (getVoice s s.srvVoice)) (getVoice s s.srvVoice)) with
    | false => exact (noisy_of_unbound _ hb n).symm
    | true =>
      obtain ⟨-, -, hfit1, hprog⟩ := voiceTurn_bound hfit rfl hb
      rw [← hread] at hfit1
      have hrest := ih (s := voiceTurn (programOf s (getVoice s s.srvVoice)) s) hfit1
      have hsrv : (voiceTurn (programOf s (getVoice s s.srvVoice)) s).srvVoice = s.srvVoice := rfl
      rw [hsrv, hread, hprog] at hrest
      exact hrest

/-- The proviso of one leaf window, on the list of voices. -/
theorem oneNoisy_of_leaf {s : State} (hs : Inv s) {n : Nat} (h : oneNoiseVoiceInLeaf n s = true) :
    OneNoisy (programOf s) n s.voices := by
  have hlen : s.voices.length = s.cfg.maxVoices := hs.2.2.2.1.1
  have hle := of_decide_eq_true h
  rw [OneNoisy, ← map_getVoice_range, List.countP_map, hlen]
  refine (List.countP_mono_left fun k _ hk => ?_).trans hle
  by_cases hb : isBound (getVoice s k) = true
  · have hfit := programFits_of_inv hs (getVoice_mem (lt_of_isBound hb)) hb
    rw [hb, Bool.true_and]
    exact (playsNoiseWithin_eq (s := { s with srvVoice := k, srvPos := 0 }) hfit n).trans hk
  · rw [Bool.not_eq_true] at hb
    rw [Function.comp, noisy_of_unbound _ hb] at hk
    cases hk

/-! ## One leaf window cut in two -/

theorem storeSamples_append (c : Config) (dst : Nat) (xs ys : List Int) (m : Memory) :
    storeSamples c dst (xs ++ ys) m = storeSamples c (dst + 2 * xs.length) ys (storeSamples c dst xs m) := by
  induction xs generalizing dst m with
  | nil => rfl
  | cons x xs ih =>
    rw [List.cons_append, storeSamples, ih, storeSamples, List.length_cons, Nat.mul_add, Nat.add_assoc,
      Nat.add_comm 2 (2 * xs.length)]

section Cut

variable {s : State} {dst a b : Nat}

/-- A bound voice finds the same program after the first part of a window. -/
theorem continues_leafState (hs : Inv s) (hw : WindowFits dst a s) (hdue : NothingDueWithin a s) :
    ∀ v ∈ s.voices, Continues (programOf s v) (programOf (leafState dst a s) (voiceAfter s a v)) (voiceAfter s a v) := by
  intro v hv
  by_cases hb : isBound (voiceAfter s a v) = true
  · obtain ⟨-, -, hq', -⟩ := hs.leafState hw hdue
    obtain ⟨-, ⟨hwf, -⟩, hq, hvoices, -⟩ := hs
    obtain ⟨m, hm⟩ := Option.isSome_iff_exists.1 hb
    have hr := (voiceAfter_bound hm).1
    obtain ⟨e, he, rfl⟩ := entry_of_req hvoices hv hr
    obtain ⟨hname, hbase, -⟩ : (playedEntry s a e).name = e.name ∧ (playedEntry s a e).base = e.base ∧ _ := by
      simpa [Entry.request] using playedEntry_request s a e
    have he' : playedEntry s a e ∈ (leafState dst a s).queue := by
      rw [leafState_queue]
      exact List.mem_map_of_mem he
    have hold := programOf_base hq he hr
    have hnew := programOf_base hq' he' (hname ▸ hm)
    have hend : (voiceAfter s a v).endIdx = e.len / 12 :=
      (nextVoice_iterate_endIdx _ a v).trans (hvoices.2.2.1 v hv e he hr).2.2.2.1
    refine .inr ⟨rfl, by rw [hnew, hold, hbase], fun x hx hx' => ?_⟩
    rw [hold] at hx hx'
    rw [hend] at hx'
    refine memRead_storeSamples_outside _ hwf _ _ ?_
    rw [mixedSamples_length]
    exact hw.unpinned e he x hx (by omega)
  · exact .inl (by simpa using hb)

theorem voiceAfter_add (hs : Inv s) (hw : WindowFits dst a s) (hdue : NothingDueWithin a s) {v : Voice}
    (hv : v ∈ s.voices) : voiceAfter (leafState dst a s) b (voiceAfter s a v) = voiceAfter s (a + b) v := by
  have hcont := (continues_leafState hs hw hdue v hv).iterate b
  rw [voiceAfter, hcont, voiceAfter, voiceAfter, Nat.add_comm, Function.iterate_add_apply]

/-- A request is Done after the whole window when it is after the first part, or after the second. -/
theorem playedEntry_add (hs : Inv s) (hw : WindowFits dst a s) (hdue : NothingDueWithin a s) (e : Entry) :
    playedEntry (leafState dst a s) b (playedEntry s a e) = playedEntry s (a + b) e := by
  have hadd {v : Voice} (hv : v ∈ s.voices) := voiceAfter_add (b := b) hs hw hdue hv
  have hname : (playedEntry s a e).name = e.name := congrArg Prod.fst (playedEntry_request s a e)
  have hlater : (∃ w ∈ (leafState dst a s).voices, w.req = some e.name ∧ (voiceAfter (leafState dst a s) b w).req = none)
      ↔ ∃ v ∈ s.voices, (voiceAfter s a v).req = some e.name ∧ (voiceAfter s (a + b) v).req = none := by
    constructor
    · rintro ⟨w, hwmem, hr, hnone⟩
      obtain ⟨v, hv, rfl⟩ := List.mem_map.1 hwmem
      exact ⟨v, hv, hr, hadd hv ▸ hnone⟩
    · rintro ⟨v, hv, hr, hnone⟩
      exact ⟨_, List.mem_map_of_mem hv, hr, (hadd hv).symm ▸ hnone⟩
  have hwhole : (∃ v ∈ s.voices, v.req = some e.name ∧ (voiceAfter s (a + b) v).req = none) ↔
      (∃ v ∈ s.voices, v.req = some e.name ∧ (voiceAfter s a v).req = none) ∨
      ∃ v ∈ s.voices, (voiceAfter s a v).req = some e.name ∧ (voiceAfter s (a + b) v).req = none := by
    constructor
    · rintro ⟨v, hv, hr, hnone⟩
      rcases voiceAfter_req s a v with hkept | hgone
      · exact .inr ⟨v, hv, hkept.trans hr, hnone⟩
      · exact .inl ⟨v, hv, hr, hgone⟩
    · rintro (⟨v, hv, hr, hgone⟩ | ⟨v, hv, hr, hnone⟩)
      · refine ⟨v, hv, hr, ?_⟩
        rw [← hadd hv, voiceAfter_of_unbound _ b (unbound_iff.2 hgone)]
        exact hgone
      · exact ⟨v, hv, (voiceAfter_bound hr).1, hnone⟩
  rw [playedEntry, hname, playedEntry, playedEntry]
  by_cases hfirst : ∃ v ∈ s.voices, v.req = some e.name ∧ (voiceAfter s a v).req = none
  · rw [if_pos hfirst, if_pos (hwhole.2 (.inl hfirst))]
    split <;> rfl
  · by_cases hsecond : ∃ v ∈ s.voices, (voiceAfter s a v).req = some e.name ∧ (voiceAfter s (a + b) v).req = none
    · rw [if_pos (hlater.2 hsecond), if_neg hfirst, if_pos (hwhole.2 (.inr hsecond))]
    · rw [if_neg fun h => hsecond (hlater.1 h), if_neg hfirst,
        if_neg fun h => (hwhole.1 h).elim hfirst hsecond]

/-- A leaf window is its two parts one after the other, with at most one voice in NOISE (R216). -/
theorem leafState_add (hs : Inv s) (hw : WindowFits dst a s) (hdue : NothingDueWithin a s)
    (hone : OneNoisy (programOf s) (a + b) s.voices) :
    leafState (dst + 2 * a) b (leafState dst a s) = leafState dst (a + b) s := by
  set s2 := leafState dst a s with hs2
  have hcont : ∀ v ∈ s.voices,
      Continues (programOf s v) (programOf s2 (afterTurns (programOf s) a v)) (afterTurns (programOf s) a v) :=
    continues_leafState hs hw hdue
  have hvoices : s2.voices.map (voiceAfter s2 b) = s.voices.map (voiceAfter s (a + b)) := by
    change (s.voices.map (voiceAfter s a)).map _ = _
    rw [List.map_map]
    exact List.map_congr_left fun v hv => voiceAfter_add hs hw hdue hv
  have hqueue : retireAll (voiceAfter s2 b) s2.voices s2.queue = retireAll (voiceAfter s (a + b)) s.voices s.queue := by
    change s2.queue.map (playedEntry s2 b) = s.queue.map (playedEntry s (a + b))
    rw [hs2, leafState_queue, List.map_map]
    exact List.map_congr_left fun e _ => playedEntry_add hs hw hdue e
  have hnoise : mixNoise (programOf s2) b s2.voices s2.noise = mixNoise (programOf s) (a + b) s.voices s.noise :=
    (mixNoise_add hcont hone s.noise).symm
  have hsamples : mixedSamples s (a + b) = mixedSamples s a ++ mixedSamples s2 b := by
    simp only [mixedSamples, List.range_add, List.map_append, List.map_map]
    congr 1
    · exact List.map_congr_left fun j hj => mixSample_first (List.mem_range.1 hj) hone s.noise
    · exact List.map_congr_left fun j hj => mixSample_second hcont (List.mem_range.1 hj) hone s.noise
  have hmem : storeSamples s2.cfg (dst + 2 * a) (mixedSamples s2 b) s2.mem =
      storeSamples s.cfg dst (mixedSamples s (a + b)) s.mem := by
    rw [hsamples, storeSamples_append, mixedSamples_length]
    rfl
  have hcurr : s2.curr + BitVec.ofNat 64 b = s.curr + BitVec.ofNat 64 (a + b) := by
    change s.curr + BitVec.ofNat 64 a + BitVec.ofNat 64 b = _
    rw [BitVec.ofNat_add, BitVec.add_assoc]
  rw [leafState, hvoices, hqueue, hnoise, hmem, hcurr]
  rfl

end Cut

end Sys2Proof.Machine
end


section
/-! SUPPORT. The loop of R219 over a window and over its two parts (R216, R219). -/

namespace Sys2Proof.Machine

/-! ## The wait after the first part (R188) -/

/-- A scan `a` samples later finds the waits shorter by `a`, where none of them has passed. -/
theorem scanQueue_later {curr curr' : Clock} {a : Nat} (hcurr : curr'.toNat = curr.toNat + a) {g : Entry → Entry}
    {q : List Entry} (hg : ∀ e ∈ q, isWaiting (g e) = isWaiting e ∧ (g e).start = e.start)
    (hdue : ∀ e ∈ q, isWaiting e = true → curr.toNat + a < e.start.toNat) {t u : Option Nat}
    (h : scanQueue curr q t = (none, u)) : scanQueue curr' (q.map g) (t.map (· - a)) = (none, u.map (· - a)) := by
  induction q generalizing t with
  | nil =>
    obtain rfl : t = u := congrArg Prod.snd h
    rfl
  | cons e q ih =>
    have htail {t : Option Nat} (h : scanQueue curr q t = (none, u)) :
        scanQueue curr' (q.map g) (t.map (· - a)) = (none, u.map (· - a)) :=
      ih (fun d hd => hg d (List.mem_cons_of_mem e hd)) (fun d hd => hdue d (List.mem_cons_of_mem e hd)) h
    obtain ⟨hwait, hstart⟩ := hg e List.mem_cons_self
    rw [List.map_cons, scanQueue, hwait, hstart]
    rw [scanQueue] at h
    by_cases hw : isWaiting e = true
    · have hlate := hdue e List.mem_cons_self hw
      rw [if_pos hw, if_neg (by omega)] at h ⊢
      have hmin : minLeft (t.map (· - a)) (e.start.toNat - curr'.toNat) =
          (minLeft t (e.start.toNat - curr.toNat)).map (· - a) := by
        cases t with
        | none => simp only [minLeft, Option.map_none, Option.map_some, hcurr]; congr 1; omega
        | some y => simp only [minLeft, Option.map_some, hcurr]; congr 1; omega
      rw [hmin]
      exact htail h
    · rw [if_neg hw] at h ⊢
      exact htail h

/-- A leaf window leaves what waits waiting, and nothing else (R39). -/
theorem isWaiting_playedEntry {s : State} (hv : VoicesInv s) (n : Nat) {e : Entry} (he : e ∈ s.queue) :
    isWaiting (playedEntry s n e) = isWaiting e := by
  rw [playedEntry]
  split
  · rename_i hret
    obtain ⟨v, hmem, hr, -⟩ := hret
    have hplaying : e.state = .playing := (hv.2.2.1 v hmem e he hr).1
    simp [isWaiting, hplaying]
  · rfl

/-- Where nothing is due and the first wait is longer than the first part of a window, nothing is due after it. -/
theorem schedule_leafState {s : State} (hs : Inv s) (hscheduled : (schedule s).1 = s) {dst a : Nat}
    (hclock : s.curr.toNat + a < 2 ^ 64) (hdue : NothingDueWithin (a + 1) s) :
    schedule (leafState dst a s) = (leafState dst a s, (schedule s).2.map (· - a)) := by
  have hends := schedule_ends s
  rw [hscheduled] at hends
  refine schedule_of_none ?_
  rw [leafState_queue]
  refine scanQueue_later (t := none) (leafState_curr hclock) (fun e he => ?_) (fun e he hw => ?_) hends
  · have hreq := playedEntry_request s a e
    simp only [Entry.request, Prod.mk.injEq] at hreq
    exact ⟨isWaiting_playedEntry hs.2.2.2.1 a he, hreq.2.2.2⟩
  · have := hdue e he (by simpa [isWaiting] using hw)
    omega

/-! ## The loop: fuel, and G.ACTIVE -/

/-- Any fuel not below the window's length does (R219). -/
theorem renderLoop_fuel {fuel fuel' dst n : Nat} {s : State} (hn : 1 ≤ n) (hf : n ≤ fuel) (hf' : n ≤ fuel') :
    renderLoop fuel dst n s = renderLoop fuel' dst n s := by
  rw [← render1_eq_renderLoop hn hf]
  induction fuel generalizing fuel' dst n s with
  | zero => omega
  | succ fuel ih =>
    obtain ⟨fuel', rfl⟩ : ∃ f, fuel' = f + 1 := ⟨fuel' - 1, by omega⟩
    rw [render1_eq_renderLoop hn hf, renderLoop_succ, renderLoop_succ]
    refine andThen_congr fun r _ => ?_
    have hpos := firstLeaf_pos hn s
    by_cases hle : n ≤ firstLeaf n s
    · rw [if_pos hle, if_pos hle]
    · rw [if_neg hle, if_neg hle, ← render1_eq_renderLoop (fuel := fuel) (by omega) (by omega),
        ih (fuel' := fuel') (by omega) (by omega) (by omega)]

/-- Scheduling neither reads nor writes G.ACTIVE (R42, R185). -/
theorem schedule_active (s : State) (x : Bool) :
    schedule { s with active := x } = ({ (schedule s).1 with active := x }, (schedule s).2) := by
  have hloop (fuel : Nat) (s : State) : scheduleLoop fuel { s with active := x } =
      ({ (scheduleLoop fuel s).1 with active := x }, (scheduleLoop fuel s).2) := by
    induction fuel generalizing s with
    | zero => rfl
    | succ fuel ih =>
      have hpromote (e : Entry) : promote e { s with active := x } = { promote e s with active := x } := rfl
      simp only [scheduleLoop, hpromote]
      cases scanQueue s.curr s.queue none with
      | mk d t =>
        cases d with
        | none => rfl
        | some e => exact ih _
  exact hloop _ s

/-- Nor does a RENDER, until its result is known (R42). -/
theorem renderLoop_active {fuel dst n : Nat} {s : State} (hs : Inv s) (hw : WindowFits dst n s) (hn : 1 ≤ n)
    (hf : n ≤ fuel) (x : Bool) {r : State × Bool} (h : renderLoop fuel dst n s = .next r) :
    renderLoop fuel dst n { s with active := x } = .next ({ r.1 with active := x }, r.2) := by
  induction fuel generalizing dst n s r with
  | zero => omega
  | succ fuel ih =>
    have hpos := firstLeaf_pos hn s
    have hfirst : firstLeaf n { s with active := x } = firstLeaf n s := by rw [firstLeaf, schedule_active, firstLeaf]
    obtain ⟨hw1, hw2⟩ := hw.schedule.split (firstLeaf_le n s)
    have hinv := hs.schedule
    have hinv' : Inv { (schedule s).1 with active := x } := hinv
    rw [renderLoop_succ, leafWindow_of_inv hinv hpos, andThen_next] at h
    rw [renderLoop_succ, hfirst, schedule_active, leafWindow_of_inv hinv' hpos, andThen_next]
    by_cases hle : n ≤ firstLeaf n s
    · rw [if_pos hle] at h ⊢
      injection h with h
      exact h ▸ rfl
    · rw [if_neg hle] at h ⊢
      obtain ⟨b, hb, h⟩ := andThen_eq_next.1 h
      injection h with h
      have hrest := ih (hinv.leafState hw1 (nothingDue_firstLeaf n s)) hw2 (by omega) (by omega) hb
      have hleaf : leafState dst (firstLeaf n s) { (schedule s).1 with active := x } =
          { leafState dst (firstLeaf n s) (schedule s).1 with active := x } := rfl
      rw [hleaf, hrest, andThen_next, ← h]
      rfl

/-- A window never wakes an idle engine (R217). -/
theorem activeNow_of_leafState {dst n : Nat} {s : State} (hs : Inv s) (h : activeNow (leafState dst n s) = true) :
    activeNow s = true := by
  rw [activeNow_iff] at h ⊢
  rcases h with ⟨e', he', hw⟩ | ⟨w, hw, hr⟩
  · rw [leafState_queue] at he'
    obtain ⟨e, he, rfl⟩ := List.mem_map.1 he'
    have hwait := isWaiting_playedEntry hs.2.2.2.1 n he
    simp only [isWaiting, hw] at hwait
    exact .inl ⟨e, he, by simpa using hwait.symm⟩
  · obtain ⟨v, hv, rfl⟩ := List.mem_map.1 hw
    refine .inr ⟨v, hv, fun hnone => hr ?_⟩
    rw [voiceAfter_of_unbound s n (unbound_iff.2 hnone), hnone]

theorem voices_ne_nil {s : State} (hs : Inv s) : s.voices ≠ [] := by
  obtain ⟨⟨-, -, -, -, hmax, -⟩, -, -, ⟨hlen, -⟩, -⟩ := hs
  intro hnil
  rw [hnil] at hlen
  simp at hlen
  omega

theorem activeNow_of_renderLoop {fuel dst n : Nat} {s : State} (hs : Inv s) (hw : WindowFits dst n s) (hn : 1 ≤ n)
    (hf : n ≤ fuel) {r : State × Bool} (h : renderLoop fuel dst n s = .next r) (hact : activeNow r.1 = true) :
    activeNow s = true := by
  obtain ⟨r', hr', -, hkept⟩ := renderLoop_of_inv (P := fun t => activeNow t = true → activeNow s = true)
    (fun t ht hk hact => hk (activeNow_schedule (voices_ne_nil ht) ▸ hact))
    (fun _ _ t ht _ _ hk hact => hk (activeNow_of_leafState ht hact)) hs hw hn hf id
  rw [h] at hr'
  injection hr' with hr'
  exact hkept (hr' ▸ hact)

/-! ## The loop over both parts -/

theorem oneNoiseVoice_of_leaf {fuel dst n : Nat} {s : State} {r : State × Bool}
    (h : leafWindow dst (firstLeaf n s) (schedule s).1 = .next r) :
    oneNoiseVoice (fuel + 1) dst n s = (oneNoiseVoiceInLeaf (firstLeaf n s) (schedule s).1 &&
      (decide (n ≤ firstLeaf n s) || oneNoiseVoice fuel (dst + 2 * firstLeaf n s) (n - firstLeaf n s) r.1)) := by
  change (_ && (_ || match leafWindow dst (firstLeaf n s) (schedule s).1 with
    | .next a => _
    | .fault _ => _
    | .refused _ => _)) = _
  rw [h]
  rfl

/-- The proviso along the loop. -/
theorem oneNoiseVoice_succ {fuel dst n : Nat} {s : State} (hs : Inv s) (hn : 1 ≤ n)
    (h : oneNoiseVoice (fuel + 1) dst n s = true) :
    OneNoisy (programOf (schedule s).1) (firstLeaf n s) (schedule s).1.voices ∧
    (firstLeaf n s < n → oneNoiseVoice fuel (dst + 2 * firstLeaf n s) (n - firstLeaf n s)
      (leafState dst (firstLeaf n s) (schedule s).1) = true) := by
  rw [oneNoiseVoice_of_leaf (leafWindow_of_inv hs.schedule (firstLeaf_pos hn s) dst), Bool.and_eq_true_iff,
    Bool.or_eq_true_iff, decide_eq_true_iff] at h
  obtain ⟨hfirst, hrest⟩ := h
  exact ⟨oneNoisy_of_leaf hs.schedule hfirst, fun hlt => hrest.resolve_left (Nat.not_le.2 hlt)⟩

theorem renderLoop_one {fuel dst n : Nat} {s : State} (hs : Inv s) (hn : 1 ≤ n) (hf : 1 ≤ fuel)
    (hall : firstLeaf n s = n) : ∃ x, renderLoop fuel dst n s = .next (leafState dst n (schedule s).1, x) := by
  obtain ⟨fuel, rfl⟩ : ∃ f, fuel = f + 1 := ⟨fuel - 1, by omega⟩
  rw [renderLoop_succ, hall, leafWindow_of_inv hs.schedule hn, andThen_next, if_pos (Nat.le_refl n)]
  exact ⟨_, rfl⟩

/-- The loop after its first leaf window, where that is not all. -/
theorem renderLoop_more {fuel dst n m : Nat} {s t : State} (hs : Inv s) (hn : 1 ≤ n) (hf : n ≤ fuel)
    (hm : firstLeaf n s = m) (hmn : m < n) {x : Bool}
    (h : renderLoop (n - m) (dst + 2 * m) (n - m) (leafState dst m (schedule s).1) = .next (t, x)) :
    ∃ y, renderLoop fuel dst n s = .next (t, y) := by
  obtain ⟨fuel, rfl⟩ : ∃ f, fuel = f + 1 := ⟨fuel - 1, by omega⟩
  have hpos := firstLeaf_pos hn s
  rw [renderLoop_succ, leafWindow_of_inv hs.schedule hpos, andThen_next, hm, if_neg (Nat.not_le.2 hmn),
    renderLoop_fuel (fuel' := n - m) (by omega) (by omega) (Nat.le_refl _), h]
  exact ⟨_, rfl⟩

theorem firstLeaf_shorter {k n : Nat} (hkn : k ≤ n) (s : State) : firstLeaf k s = min (firstLeaf n s) k := by
  simp only [firstLeaf]
  cases (schedule s).2 with
  | none => simp only [Option.getD_none]; omega
  | some t => simp only [Option.getD_some]; omega

/-- The state after a RENDER is the state after its two parts (R216). -/
theorem renderLoop_split {fuel dst k n : Nat} {s : State} (hs : Inv s) (hw : WindowFits dst n s) (hk : 0 < k)
    (hkn : k < n) (hf : n ≤ fuel) (hone : oneNoiseVoice fuel dst n s = true) :
    ∃ u t x y z, renderLoop k dst k s = .next (u, x) ∧ renderLoop (n - k) (dst + 2 * k) (n - k) u = .next (t, y) ∧
      renderLoop n dst n s = .next (t, z) := by
  induction fuel generalizing dst k n s with
  | zero => omega
  | succ fuel ih =>
    have hn : 1 ≤ n := by omega
    have hpos := firstLeaf_pos hn s
    have hle := firstLeaf_le n s
    have hshort := firstLeaf_shorter (Nat.le_of_lt hkn) s
    have hinv := hs.schedule
    have hdue := nothingDue_firstLeaf n s
    obtain ⟨hone1, hone2⟩ := oneNoiseVoice_succ hs hn hone
    set m := firstLeaf n s with hm
    set s1 := (schedule s).1 with hs1
    obtain ⟨hw1, hw2⟩ := hw.schedule.split hle
    have hinv2 := hinv.leafState hw1 hdue
    rcases Nat.lt_trichotomy k m with hkm | hkm | hkm
    · -- The cut is inside the first leaf window.
      obtain ⟨hwk, -⟩ := hw.schedule.split (Nat.le_of_lt hkn)
      have hduek : NothingDueWithin k s1 := fun e he hwait => by
        have := hdue e he hwait
        omega
      have hduek' : NothingDueWithin (k + 1) s1 := fun e he hwait => by
        have := hdue e he hwait
        omega
      obtain ⟨x, hx⟩ := renderLoop_one (dst := dst) (fuel := k) hs hk hk (by omega)
      have hinvk := hinv.leafState hwk hduek
      have hcut : leafState (dst + 2 * k) (m - k) (leafState dst k s1) = leafState dst m s1 := by
        have hadd := leafState_add (b := m - k) hinv hwk hduek (by rw [Nat.add_sub_cancel' (Nat.le_of_lt hkm)]; exact hone1)
        rwa [Nat.add_sub_cancel' (Nat.le_of_lt hkm)] at hadd
      have hsched : schedule (leafState dst k s1) = (leafState dst k s1, (schedule s).2.map (· - k)) := by
        have hsame : schedule s1 = schedule s := schedule_schedule s
        rw [schedule_leafState hinv (by rw [hsame]) hwk.clock hduek', hsame]
      have hfirst : firstLeaf (n - k) (leafState dst k s1) = m - k := by
        rw [firstLeaf, hsched, hm, firstLeaf]
        cases (schedule s).2 with
        | none => simp only [Option.map_none, Option.getD_none]; omega
        | some t => simp only [Option.map_some, Option.getD_some]; omega
      by_cases hall : m = n
      · have hfirst' : firstLeaf (n - k) (leafState dst k s1) = n - k := by rw [hfirst, hall]
        obtain ⟨y, hy⟩ := renderLoop_one (dst := dst + 2 * k) (fuel := n - k) hinvk (by omega) (by omega) hfirst'
        obtain ⟨z, hz⟩ := renderLoop_one (dst := dst) (fuel := n) hs hn hn (hm.symm.trans hall)
        rw [hsched, ← hall, hcut, hall] at hy
        rw [← hs1] at hx hz
        exact ⟨_, _, x, y, z, hx, hy, hz⟩
      · obtain ⟨⟨t, w⟩, hr, -, -⟩ := renderLoop_of_inv (P := fun _ => True) (fun _ _ _ => trivial)
          (fun _ _ _ _ _ _ _ => trivial) hinv2 hw2 (by omega) (Nat.le_refl (n - m)) trivial
        obtain ⟨z, hz⟩ := renderLoop_more hs hn (Nat.le_refl n) hm.symm (by omega) hr
        have hrest : renderLoop (n - k - (m - k)) (dst + 2 * k + 2 * (m - k)) (n - k - (m - k))
            (leafState (dst + 2 * k) (m - k) (schedule (leafState dst k s1)).1) = .next (t, w) := by
          rw [hsched, hcut, show n - k - (m - k) = n - m by omega, show dst + 2 * k + 2 * (m - k) = dst + 2 * m by omega]
          exact hr
        obtain ⟨y, hy⟩ := renderLoop_more hinvk (by omega) (Nat.le_refl (n - k)) hfirst (by omega) hrest
        rw [← hs1] at hx
        exact ⟨_, t, x, y, z, hx, hy, hz⟩
    · -- The cut is where the first leaf window ends.
      subst hkm
      obtain ⟨x, hx⟩ := renderLoop_one (dst := dst) (fuel := m) hs hk hk (by omega)
      obtain ⟨⟨t, y⟩, hr, -, -⟩ := renderLoop_of_inv (P := fun _ => True) (fun _ _ _ => trivial)
        (fun _ _ _ _ _ _ _ => trivial) hinv2 hw2 (by omega) (Nat.le_refl (n - m)) trivial
      obtain ⟨z, hz⟩ := renderLoop_more hs hn (Nat.le_refl n) hm.symm hkn hr
      exact ⟨_, t, x, y, z, hx, hr, hz⟩
    · -- The cut is in a later leaf window.
      obtain ⟨u, t, x, y, z, hu, ht, hz⟩ := ih hinv2 hw2 (k := k - m) (n := n - m) (by omega) (by omega) (by omega)
        (hone2 (by omega))
      obtain ⟨x', hx'⟩ := renderLoop_more (dst := dst) hs hk (Nat.le_refl k) (by omega : firstLeaf k s = m) hkm hu
      obtain ⟨z', hz'⟩ := renderLoop_more hs hn (Nat.le_refl n) hm.symm (by omega) hz
      rw [show n - m - (k - m) = n - k by omega, show dst + 2 * m + 2 * (k - m) = dst + 2 * k by omega] at ht
      exact ⟨u, t, x', y, z', hx', ht, hz'⟩

/-! ## The refusals of the parts (R69, R251) -/

theorem overlapsDevice_part {c : Config} {a n b m : Nat} (h : overlapsDevice c a n = false) (hb : a ≤ b)
    (hm : b + m ≤ a + n) : overlapsDevice c b m = false := by
  have hpart {x l : Nat} (h : rangesOverlap a n x l = false) : rangesOverlap b m x l = false := by
    rw [Bool.eq_false_iff] at h ⊢
    intro hover
    obtain ⟨y, hy, hy', hx⟩ := rangesOverlap_iff.1 hover
    exact h (rangesOverlap_iff.2 ⟨y, by omega, by omega, hx⟩)
  rw [overlapsDevice, Bool.or_eq_false_iff, List.any_eq_false] at h ⊢
  exact ⟨hpart h.1, fun d hd => by simpa using hpart (by simpa using h.2 d hd)⟩

/-- A part of a window that is not refused is not refused, once the clock has reached it. -/
theorem renderRefusal_part {s t : State} {dst n a m : Nat} (h : renderRefusal dst n s = none) (hm : 0 < m)
    (ham : a + m ≤ n) (hcfg : t.cfg = s.cfg) (hcurr : t.curr.toNat = s.curr.toNat + a)
    (hq : t.queue.map Entry.buffer = s.queue.map Entry.buffer) : renderRefusal (dst + 2 * a) m t = none := by
  obtain ⟨-, hend, hdev, hpin, hclock⟩ := renderRefusal_none h
  refine renderRefusal_eq_none (by rw [hcfg]; omega) (by rw [hcfg]; omega)
    (hcfg ▸ overlapsDevice_part hdev (by omega) (by omega)) (overlapsPinned_eq_false fun d hd x hx hx' => ?_) (by omega)
  obtain ⟨e, he, hbuf⟩ := List.mem_map.1 (hq ▸ List.mem_map_of_mem hd)
  obtain ⟨hb, hl⟩ := Prod.mk.inj hbuf
  have := not_pinned_of_overlapsPinned hpin he (x := x) (by omega) (by omega)
  omega

end Sys2Proof.Machine
end

section
/-! The statement about a RENDER cut in two. -/

namespace Sys2Proof.Proofs

open Sys2Proof.Machine

/-- Settles O41: the loops over the two parts end in the state of the loop over the whole, and an engine idle after the
first part was idle before it only where it was all along. -/
theorem renderSplitsWithoutTrace : Obligations.RenderSplitsWithoutTrace := by
  intro s dst k n hs hf hk hkn hr hone
  have hn : 1 ≤ n := by omega
  have hw := windowFits_of_refusal hr
  obtain ⟨u, t, x, y, z, hu, ht, hz⟩ := renderLoop_split hs hw hk hkn (Nat.le_refl n) hone
  have hr1 : renderRefusal dst k s = none := by
    simpa using renderRefusal_part (a := 0) hr hk (by omega) rfl rfl rfl
  obtain ⟨⟨u', x'⟩, hu', hinv, -⟩ := renderLoop_of_inv (P := fun _ => True) (fun _ _ _ => trivial)
    (fun _ _ _ _ _ _ _ => trivial) hs (windowFits_of_refusal hr1) hk (Nat.le_refl k) trivial
  obtain ⟨rfl, rfl⟩ : u = u' ∧ x = x' := by
    rw [hu] at hu'
    injection hu' with hu'
    exact Prod.mk.inj hu'
  have hu1 : render1 k dst k s = .next (u, x) := (render1_eq_renderLoop hk (Nat.le_refl k)).trans hu
  have hz1 : render1 n dst n s = .next (t, z) := (render1_eq_renderLoop hn (Nat.le_refl n)).trans hz
  have hdone := WindowDone.of_renderLoop hs.1 hs.2.1.1 hk (Nat.le_refl k) hu
  obtain ⟨hcfg, hfault, -⟩ := render1_frame hu1
  have hcurr : u.curr.toNat = s.curr.toNat + k := by
    obtain ⟨-, -, -, -, hclock⟩ := renderRefusal_none hr
    rw [hdone.curr, BitVec.toNat_add, BitVec.toNat_ofNat]
    omega
  have hr2 : renderRefusal (dst + 2 * k) (n - k) { u with active := x } = none :=
    renderRefusal_part (t := { u with active := x }) hr (by omega) (by omega) hcfg hcurr
      (render1_queue_map Entry.buffer (fun _ _ => rfl) hu1)
  have hwu : WindowFits (dst + 2 * k) (n - k) u := windowFits_of_refusal hr2
  have ht1 := renderLoop_active hinv hwu (by omega) (Nat.le_refl _) x ht
  rw [← render1_eq_renderLoop (by omega) (Nat.le_refl _)] at ht1
  refine ⟨_, _, _, renderCommand_of_render1 hf hr1 hk hu1,
    renderCommand_of_render1 (hfault.trans hf) hr2 (by omega) ht1, renderCommand_of_render1 hf hr hn hz1, rfl, ?_⟩
  have hx := renderLoop_result (voices_ne_nil hs) hk hu
  have hy := renderLoop_result (voices_ne_nil hinv) (by omega) ht
  have hz' := renderLoop_result (voices_ne_nil hs) hn hz
  have hidle := activeNow_of_renderLoop hs (windowFits_of_refusal hr1) hk (Nat.le_refl k) hu
  change z = (x || y)
  simp only at hx hy hz' hidle
  rw [hx, hy, hz']
  cases hact : activeNow u with
  | false => rw [Bool.or_false]
  | true => rw [hidle hact, Bool.or_true]

end Sys2Proof.Proofs
end
